-- ==== Sys2Proof/Word.lean ====
section
/-! DEFINITION. The bit vectors of the block (00_scope.md R6, R8): what the spec treats as bits.
Ring indices and the block counter are ranges, not words, and live with the state. -/

namespace Sys2Proof

/-- A byte: a decoded word's value, a resolved byte, a command field (R6: 8 bits each). -/
abbrev Byte := BitVec 8

/-- A duration in microseconds, unsigned, `DUR_W = 32` bits (R6). -/
abbrev Dur := BitVec 32

/-- The transaction word `TXN36` (30_encoding.md R93). -/
abbrev TxnWord := BitVec 36

end Sys2Proof
end

