-- ==== Sys2Proof/Config.lean ====
section
/-! DEFINITION. The block's fixed constants (00_scope.md R5), its two named parameters (R7), and the one
value the spec leaves open: what the detector does on a block count that no run from RESET reaches. -/

namespace Sys2Proof

/-- `CAP`: ring capacity in entries. -/
def cap : Nat := 1000

/-- `GLITCH`: a duration up to and including this is folded. -/
def glitch : Nat := 50

/-- `SYM`: symbol length in microseconds. -/
def sym : Nat := 400

/-- `TOL`: tolerance in microseconds. -/
def tol : Nat := 200

/-- `SYNC_MIN`: inclusive lower bound of a sync low pulse and of BlockGap. -/
def syncMin : Nat := 2750

/-- `SYNC_MAX`: inclusive upper bound of a sync low pulse and of BlockGap. -/
def syncMax : Nat := 3650

/-- `N_BLOCKS`: sync blocks counted before the detector is armed. -/
def nBlocks : Nat := 10

/-- `BLOCK_DIST`: required distance from LBI to the next sync low pulse. -/
def blockDist : Nat := 21

/-- `READY_DIST`: distance from LBI to the high edge that declares Ready, and the slice-end offset. -/
def readyDist : Nat := 20

/-- `N_WORDS`: words split from a frame. -/
def nWords : Nat := 10

/-- `WORD_SYMS`: data symbols per retained word. -/
def wordSyms : Nat := 24

/-- `TRAIL_SYMS`: trailing parity and check symbols removed from each segment. -/
def trailSyms : Nat := 6

/-- `N_BYTES`: resolved command bytes. -/
def nBytes : Nat := 5

/-- `MEMBER_OFFSET`: subtracted from a non-zero CentralUnit member code. -/
def memberOffset : Byte := 7

/-- The two legal values of the parameter `LEAD_W` (R7). -/
inductive LeadWidth where
  | five
  | four
deriving DecidableEq, Repr

/-- `LEAD_W` as a number of bits. -/
def LeadWidth.bits : LeadWidth → Nat
  | .five => 5
  | .four => 4

/-- The parameters a model takes as arguments (R7). They are fixed per device and are no state of
the block (R30); the machine carries them so that every claim holds for all four choices. -/
structure Config where
  /-- `LEAD_W` (92 D21). -/
  leadW : LeadWidth
  /-- `SYNC_RESTART` (92 D11). -/
  syncRestart : Bool
deriving DecidableEq, Repr

/-- The defaults of R7: `LEAD_W = 5`, `SYNC_RESTART = false`. -/
def Config.default : Config := { leadW := .five, syncRestart := false }

/-- What SyncStep may write: `BC`, `START`, `LBI` and `READY` (41_sync.md R171). -/
structure Detector where
  bc : BitVec 4
  start : Fin 1000
  lbi : Fin 1000
  ready : Bool
deriving DecidableEq, Repr, Inhabited

/-- The free value: what SyncStep leaves in the detector where `BC` is 11 to 15, of which 41_sync.md R171
gives no case and 70_reset_and_hazards.md R352 lets nothing be assumed. It may depend on the whole state
(whose type stands in a later file), and nothing else is known of it. DESIGN CHOICE, log entry 15. -/
opaque Config.unspecifiedDetector {σ : Type} (s : σ) : Detector

end Sys2Proof
end

