-- ==== Sys2Proof/Syntax.lean ====
section
/-! DEFINITION. The transactions of the block, one constructor per row of the opcode table
(30_encoding.md R91, R94). A transaction is what other machines call an instruction. -/

namespace Sys2Proof

/-- One transaction. `edge` alone has operands (R92); every other word's `lvl` and `dur` bits are
ignored (R95 (b)) and so are no part of the transaction. -/
inductive Instr where
  /-- IDLE, op 000 (R304). -/
  | idle
  /-- EDGE, op 001: the level of the pulse that just ended (`true` is high) and its duration (R144). -/
  | edge (lvl : Bool) (dur : Dur)
  /-- SYNC_RESET, op 010 (R180). -/
  | syncReset
  /-- CMD_ACCEPT, op 011 (R303). -/
  | cmdAccept
  /-- RESET, op 100 (R350). -/
  | reset
  /-- DECODE, op 101: the block's internal step, named in a trace only (R301, R95 (c)). -/
  | decode
  /-- The reserved op 110 (R95 (a)). -/
  | reserved110
  /-- The reserved op 111 (R95 (a)). -/
  | reserved111
deriving DecidableEq, Repr

end Sys2Proof
end

