-- ==== Sys2Proof/WellFormed.lean ====
section
/-! DEFINITION. What can be ill formed.
A term of `Instr` cannot: its operands' types are exactly the fields' widths (R92, R93).
Two things can: a LINE of the spec's trace text, whose numbers are unbounded decimals (R110, R111),
and a transaction PRESENTED ON THE PORTS, which must not be DECODE nor a reserved code
(R95 (c), and the reading rules of R308). -/

namespace Sys2Proof

/-- A line of the trace text: a mnemonic with its operands (R110), or a pseudo-operation (R111). -/
inductive Line where
  | idle
  /-- `EDGE <dur>, H` (`true`) or `EDGE <dur>, L` (`false`). -/
  | edge (dur : Nat) (lvl : Bool)
  | syncReset
  | cmdAccept
  | reset
  | decode
  /-- `SYNC` -/
  | sync
  /-- `BIT0` -/
  | bit0
  /-- `BIT1` -/
  | bit1
  /-- `WORD b` -/
  | word (b : Nat)
  /-- `FRAME b0,b1,b2,b3,b4` -/
  | frame (b0 b1 b2 b3 b4 : Nat)
  /-- `GLITCH d` -/
  | glitch (d : Nat)
deriving DecidableEq, Repr

/-- A line is well formed when its numbers fit: a duration its 32 bits (R92), a byte its 8, and a
`GLITCH` operand the glitch threshold (R111: "where `d <= GLITCH`"). -/
def Line.wellFormed : Line → Bool
  | .idle => true
  | .edge dur _ => decide (dur < 2 ^ 32)
  | .syncReset => true
  | .cmdAccept => true
  | .reset => true
  | .decode => true
  | .sync => true
  | .bit0 => true
  | .bit1 => true
  | .word b => decide (b < 2 ^ 8)
  | .frame b0 b1 b2 b3 b4 =>
    decide (b0 < 2 ^ 8) && decide (b1 < 2 ^ 8) && decide (b2 < 2 ^ 8) && decide (b3 < 2 ^ 8)
      && decide (b4 < 2 ^ 8)
  | .glitch d => decide (d ≤ Sys2Proof.glitch)

/-- The environment may present this transaction on the ports (R91, R94, R308): not the internal
DECODE, and no reserved code. -/
def Instr.presentable : Instr → Bool
  | .idle => true
  | .edge _ _ => true
  | .syncReset => true
  | .cmdAccept => true
  | .reset => true
  | .decode => false
  | .reserved110 => false
  | .reserved111 => false

end Sys2Proof
end

