-- ==== Sys2Proof/Decode.lean ====
section
/-! DEFINITION. From transaction words to transactions and back (30_encoding.md R93 to R95). -/

namespace Sys2Proof

/-- Bits `[35:33]`, the `op` field. -/
def opField (w : TxnWord) : BitVec 3 := w.extractLsb' 33 3

/-- Bit `[32]`, the `lvl` field. -/
def lvlField (w : TxnWord) : Bool := w.getLsbD 32

/-- Bits `[31:0]`, the `dur` field. -/
def durField (w : TxnWord) : Dur := w.extractLsb' 0 32

/-- The transaction of a code and operands: the table of R94, the code's bits read from bit 35 down.
All eight codes are assigned. -/
def instrOf (op : BitVec 3) (lvl : Bool) (dur : Dur) : Instr :=
  match op.getLsbD 2, op.getLsbD 1, op.getLsbD 0 with
  | false, false, false => .idle
  | false, false, true => .edge lvl dur
  | false, true, false => .syncReset
  | false, true, true => .cmdAccept
  | true, false, false => .reset
  | true, false, true => .decode
  | true, true, false => .reserved110
  | true, true, true => .reserved111

/-- "A decoder finds the transaction from `op` alone" (R93), so every 36-bit word decodes. -/
def decode (w : TxnWord) : Instr := instrOf (opField w) (lvlField w) (durField w)

/-- A word laid out from its three fields, `op` at the top (R93). -/
def txn (op : BitVec 3) (lvl : Bool) (dur : Dur) : TxnWord :=
  (op ++ (BitVec.ofBool lvl ++ dur)).cast (by decide)

/-- The word of a transaction: its code of R94, and for all but EDGE the ignored fields zero. -/
def encode : Instr → TxnWord
  | .idle => txn 0b000#3 false 0#32
  | .edge lvl dur => txn 0b001#3 lvl dur
  | .syncReset => txn 0b010#3 false 0#32
  | .cmdAccept => txn 0b011#3 false 0#32
  | .reset => txn 0b100#3 false 0#32
  | .decode => txn 0b101#3 false 0#32
  | .reserved110 => txn 0b110#3 false 0#32
  | .reserved111 => txn 0b111#3 false 0#32

/-- The mnemonic of a transaction, as the opcode table spells it. -/
def Instr.mnemonic : Instr → String
  | .idle => "IDLE"
  | .edge _ _ => "EDGE"
  | .syncReset => "SYNC_RESET"
  | .cmdAccept => "CMD_ACCEPT"
  | .reset => "RESET"
  | .decode => "DECODE"
  | .reserved110 => "RESERVED_110"
  | .reserved111 => "RESERVED_111"

/-- A row of the opcode table: a word is the row's when its bits under the mask are the match. -/
structure OpcodeRow where
  mnemonic : String
  matchBits : TxnWord
  mask : TxnWord
deriving DecidableEq, Repr

/-- spec/opcode_table.json. -/
def opcodeTable : List OpcodeRow :=
  [⟨"IDLE", 0x0#36, 0xE00000000#36⟩,
   ⟨"EDGE", 0x200000000#36, 0xE00000000#36⟩,
   ⟨"SYNC_RESET", 0x400000000#36, 0xE00000000#36⟩,
   ⟨"CMD_ACCEPT", 0x600000000#36, 0xE00000000#36⟩,
   ⟨"RESET", 0x800000000#36, 0xE00000000#36⟩,
   ⟨"DECODE", 0xA00000000#36, 0xE00000000#36⟩,
   ⟨"RESERVED_110", 0xC00000000#36, 0xE00000000#36⟩,
   ⟨"RESERVED_111", 0xE00000000#36, 0xE00000000#36⟩]

/-- The word is the row's. -/
def OpcodeRow.admits (r : OpcodeRow) (w : TxnWord) : Bool := w &&& r.mask == r.matchBits

/-- Why bits that come from outside are no transaction word. -/
inductive DecodeError where
  /-- The number has a bit above bit 35: it is no 36-bit word (R93: "a fixed 36-bit word"). -/
  | wordTooWide (n : Nat)
deriving DecidableEq, Repr

/-- Decode a number of any size: a number that is no 36-bit word is rejected by name. -/
def decodeNat (n : Nat) : Except DecodeError Instr :=
  if n < 2 ^ 36 then .ok (decode (BitVec.ofNat 36 n)) else .error (.wordTooWide n)

/-- The transaction the decoder reads from a word numbered as the opcode table numbers it: one word,
bit 0 its least significant bit, every bit from `nbits` up zero. -/
def decodeTableWord (nbits w : Nat) : Option Instr := (decodeNat (w % 2 ^ nbits)).toOption

end Sys2Proof
end

