-- ==== Sys2Proof/Machine/State.lean ====
section
/-! DEFINITION. The block's whole state (10_state.md R30), as plain data, and its reset value
(70_reset_and_hazards.md R351).
The ring is held as the list of the slots that differ from their reset contents. -/

namespace Sys2Proof.Machine

/-- A ring index: "A model can type indices as `Fin CAP`" (20_memory.md R66). -/
abbrev Slot := Fin 1000

/-- A CapturedEdge (R31): `dur` microseconds at level `lvl`, `true` being high. -/
structure Entry where
  dur : Dur
  lvl : Bool
deriving DecidableEq, Repr

/-- The reset entry `{dur = 0, lvl = 0}` (R31, R351): what an unlisted slot holds. -/
def Entry.zero : Entry := { dur := 0#32, lvl := false }

/-- `RING`, the block's only memory (20_memory.md R60): slot number and entry, in the canonical form
of `Memory.wf` (slots strictly rising, no entry equal to what an unlisted slot holds). -/
abbrev Memory := List (Nat × Entry)

/-- `BC`, 4 bits. "Values 11..15 of its 4 bits are never reached" (R33), but the state before the first
RESET, of which nothing may be assumed, may hold them (70_reset_and_hazards.md R352). -/
abbrev BlockCount := BitVec 4

/-- The eight fields of the command output register (R38). -/
structure Command where
  /-- `CMD_TYPE` -/
  typ : Byte
  /-- `CMD_ID0` -/
  id0 : Byte
  /-- `CMD_ID1` -/
  id1 : Byte
  /-- `CMD_ID2` -/
  id2 : Byte
  /-- `CMD_COUNTER` -/
  counter : Byte
  /-- `CMD_MEMBER` -/
  member : Byte
  /-- `CMD_GROUP` -/
  group : Byte
  /-- `CMD_ACTION` -/
  action : Byte
deriving DecidableEq, Repr

/-- The command fields of a never-emitted register (R38). -/
def Command.zero : Command :=
  { typ := 0#8, id0 := 0#8, id1 := 0#8, id2 := 0#8, counter := 0#8, member := 0#8, group := 0#8,
    action := 0#8 }

/-- What a DECODE reports: the outcomes of 60_exceptions.md R328, each with a code (`DecStatus.code`). -/
inductive DecStatus where
  /-- 0, no DECODE since reset. -/
  | none
  /-- 1 -/
  | emitted
  /-- 2 -/
  | suppressed
  /-- 3 -/
  | byteLost
  /-- 4 -/
  | unrecType
  /-- 5 -/
  | unrecAction
deriving DecidableEq, Repr

/-- Everything R30 gives the block, and two fields of the model's own (`params`, `trace`). -/
structure State where
  /-- `RING` (R31). -/
  ring : Memory
  /-- `WR`, the write cursor (R32). -/
  wr : Slot
  /-- `BC`, the sync blocks accepted (R33). -/
  bc : BlockCount
  /-- `START`, the first data slot of the frame (R34). -/
  start : Slot
  /-- `LBI`, the slot after the most recently accepted sync low pulse (R35). -/
  lbi : Slot
  /-- `READY`, the "frame ready" flag (R36). -/
  ready : Bool
  /-- `CMD_VALID` (R38). -/
  cmdValid : Bool
  /-- `CMD_TYPE` to `CMD_ACTION` (R38). -/
  cmd : Command
  /-- `DEDUP_VALID` (R39). -/
  dedupValid : Bool
  /-- `LAST_COUNTER` (R39). -/
  lastCounter : Byte
  /-- `LAST_ID0` (R39). -/
  lastId0 : Byte
  /-- `LAST_ID1` (R39). -/
  lastId1 : Byte
  /-- `LAST_ID2` (R39). -/
  lastId2 : Byte
  /-- `DEC_STATUS` (R40), 3 bits. Codes 6 and 7 are "never written" (60_exceptions.md R328), but the state
  before the first RESET may hold them (70_reset_and_hazards.md R352). -/
  decStatus : BitVec 3
  /-- `WORD_VALID`, bit `i` for Word `i` (R40). -/
  wordValid : BitVec 10
  /-- `BYTE_VALID`, bit `k` for byte `k` (R40). -/
  byteValid : BitVec 5
  /-- `SHIFTED` (R40). -/
  shifted : Bool
  /-- The model's own: the parameters of R7, "fixed per device", written by no step (log entry 2). -/
  params : Config
  /-- The model's own: the transaction words still to come, first one next (log entry 1). -/
  trace : List TxnWord
deriving DecidableEq, Repr

/-- Why the machine stops with a fault: NEVER. "No transaction faults" (60_exceptions.md R331), so
there is no constructor. Safe or unsafe does not arise. -/
inductive Fault where
deriving DecidableEq, Repr

/-- Why a transaction has no meaning where it stands. -/
inductive Refusal where
  /-- Raised by `exec`'s arm of an instruction that has no meaning yet; no arm does. Safe. -/
  | notModelled (mnemonic : String)
  /-- Raised by `execDecode` when DECODE is listed where it is not enabled: such a trace "describes
  no run" (30_encoding.md R95 (c); 93_implementation_defined.md item 3: refuse). Safe. -/
  | decodeNotEnabled
deriving DecidableEq, Repr

/-- The state right after RESET (R351). The parameters are the defaults of R7, and no transaction has
been presented yet. -/
def State.reset : State where
  ring := []
  wr := 0
  bc := 0
  start := 0
  lbi := 0
  ready := false
  cmdValid := false
  cmd := Command.zero
  dedupValid := false
  lastCounter := 0#8
  lastId0 := 0#8
  lastId1 := 0#8
  lastId2 := 0#8
  decStatus := 0#3
  wordValid := 0#10
  byteValid := 0#5
  shifted := false
  params := Config.default
  trace := []

end Sys2Proof.Machine
end

