-- ==== Sys2Proof/Machine/Operands.lean ====
section
/-! DEFINITION. Ring index arithmetic (40_capture.md R140 to R142) and runs of slots
(42_symbol.md R201): how an operation names the entries it works on. -/

namespace Sys2Proof.Machine

/-- `next(i) = (i + 1) mod CAP` (R140). -/
def next (i : Slot) : Slot := ⟨(i.val + 1) % cap, Nat.mod_lt _ (by decide)⟩

/-- `previous(i) = (i + CAP - 1) mod CAP` (R141). -/
def previous (i : Slot) : Slot := ⟨(i.val + cap - 1) % cap, Nat.mod_lt _ (by decide)⟩

/-- `distance(a, b) = (b - a + CAP) mod CAP` (R142). -/
def distance (a b : Slot) : Nat := (b.val + cap - a.val) % cap

/-- The slot `n` slots after `i`: `(i + n) mod CAP` (the form of `END` in R201). -/
def slotAfter (i : Slot) (n : Nat) : Slot := ⟨(i.val + n) % cap, Nat.mod_lt _ (by decide)⟩

/-- The run of `n` slots that begins at `i`: `[i, next(i), ...]`. -/
def slotRun : Slot → Nat → List Slot
  | _, 0 => []
  | i, n + 1 => i :: slotRun (next i) n

/-- `END = (LBI + READY_DIST) mod CAP` (R201). -/
def State.sliceEnd (s : State) : Slot := slotAfter s.lbi readyDist

/-- The frame slice `[START, END)`, `distance(START, END)` slots (R201). -/
def State.slice (s : State) : List Slot := slotRun s.start (distance s.start s.sliceEnd)

end Sys2Proof.Machine
end

