-- ==== Sys2Proof/Machine/Ops.lean ====
section
/-! DEFINITION. The named operations over the ring and the detector registers that the transactions
share (20_memory.md R62; 41_sync.md R179). The block has no trap and so no trap entry or return
(60_exceptions.md R331, R333, R334): the analogues are READY set by an EDGE and cleared by DECODE. -/

namespace Sys2Proof.Machine

/-- The canonical form, from slot `lo` on: slots strictly rising and below CAP, no entry equal to what
an unlisted slot holds. -/
def Memory.wfFrom : Nat → List (Nat × Entry) → Bool
  | _, [] => true
  | lo, (a, e) :: m => decide (lo ≤ a) && decide (a < cap) && decide (e ≠ Entry.zero) && wfFrom (a + 1) m

/-- The ring is in canonical form. -/
def Memory.wf (m : Memory) : Bool := Memory.wfFrom 0 m

/-- `MemRead(a, 1)` on the listed entries; an unlisted slot holds the reset entry. -/
def Memory.readAt : List (Nat × Entry) → Nat → Entry
  | [], _ => Entry.zero
  | (b, e) :: m, a => if b = a then e else readAt m a

/-- Put an entry at the head of the list, unless it is what an unlisted slot holds. -/
def Memory.consEntry (a : Nat) (e : Entry) (m : List (Nat × Entry)) : List (Nat × Entry) :=
  if e = Entry.zero then m else (a, e) :: m

/-- `MemWrite(a, 1, e)` on the listed entries, keeping the canonical form. -/
def Memory.writeAt : List (Nat × Entry) → Nat → Entry → List (Nat × Entry)
  | [], a, e => consEntry a e []
  | (b, f) :: m, a, e =>
    if a < b then consEntry a e ((b, f) :: m)
    else if a = b then consEntry a e m
    else (b, f) :: writeAt m a e

/-- `RING[i]` (00_scope.md R11): one whole entry. -/
def Memory.read (m : Memory) (i : Slot) : Entry := Memory.readAt m i.val

/-- `RING[i] <- e` (R11): one whole entry. -/
def Memory.write (m : Memory) (i : Slot) (e : Entry) : Memory := Memory.writeAt m i.val e

/-- `RING[i].dur <- v` (R11): the duration only. -/
def Memory.writeDur (m : Memory) (i : Slot) (v : Dur) : Memory :=
  m.write i { m.read i with dur := v }

/-- The append access (R62, 40_capture.md R147): write the entry at the cursor, move the cursor on. -/
def State.append (s : State) (e : Entry) : State :=
  { s with ring := s.ring.write s.wr e, wr := next s.wr }

/-- The fold access (R62, 40_capture.md R146): add to the duration of the most recent entry, modulo
2^32. -/
def State.fold (s : State) (dur : Dur) : State :=
  { s with ring := s.ring.writeDur (previous s.wr) ((s.ring.read (previous s.wr)).dur + dur) }

/-- `ClearSync()` (41_sync.md R179). -/
def State.clearSync (s : State) : State := { s with bc := 0, start := 0, lbi := 0 }

/-- Take the sync low pulse at `c` as block 1 (41_sync.md R172, R176). -/
def State.firstBlock (s : State) (c : Slot) : State :=
  { s with start := next c, lbi := next c, bc := 1 }

/-- Accept the sync low pulse at `c` as one more block (41_sync.md R173). -/
def State.acceptBlock (s : State) (c : Slot) : State := { s with lbi := next c, bc := s.bc + 1 }

/-- Write all four detector registers at once. -/
def State.withDetector (s : State) (d : Detector) : State :=
  { s with bc := d.bc, start := d.start, lbi := d.lbi, ready := d.ready }

/-- `READY <- 1` (41_sync.md R177). -/
def State.declareReady (s : State) : State := { s with ready := true }

/-- `READY <- 0`. -/
def State.clearReady (s : State) : State := { s with ready := false }

end Sys2Proof.Machine
end

