-- ==== Sys2Proof/Machine/Flags.lean ====
section
/-! DEFINITION. Everything computed from the flags and status registers: the detector phase
(10_state.md R41), the enabling of DECODE (46_decode_engine.md R301), `capture_en`
(30_encoding.md R97), the `DEC_STATUS` codes (60_exceptions.md R328), the valid bits (R329), and the
end of a run (46_decode_engine.md R309). -/

namespace Sys2Proof.Machine

/-- The detector's phases (R41). -/
inductive Phase where
  | idle
  | accumulating
  | armed
  | ready
deriving DecidableEq, Repr

/-- The phase is a function of `BC` and `READY` (R41). The rows of R41's table exclude each other, and one
of them holds, wherever R42's I1 and I5 do; elsewhere `READY` is asked first, and a count above 10 is shown
as armed (log entry 8). No transaction reads the phase. -/
def State.phase (s : State) : Phase :=
  if s.ready then .ready
  else if s.bc.toNat = 0 then .idle
  else if s.bc.toNat ≤ 9 then .accumulating
  else .armed

/-- `capture_en` is `NOT READY` (R97). -/
def State.captureEn (s : State) : Bool := !s.ready

/-- DECODE is enabled iff `READY = 1` and `CMD_VALID = 0` (R301). -/
def State.decodeEnabled (s : State) : Bool := s.ready && !s.cmdValid

/-- The run has ended: the sequence is exhausted and DECODE is not enabled (R309). -/
def State.runEnded (s : State) : Bool := s.trace.isEmpty && !s.decodeEnabled

/-- The code of a decode outcome (R328). -/
def DecStatus.code : DecStatus → BitVec 3
  | .none => 0
  | .emitted => 1
  | .suppressed => 2
  | .byteLost => 3
  | .unrecType => 4
  | .unrecAction => 5

/-- Valid bits as a number, the first of the list at bit 0. -/
def bitsToNat : List Bool → Nat
  | [] => 0
  | b :: bs => b.toNat + 2 * bitsToNat bs

/-- `WORD_VALID[i] <- W[i].valid` (R301, R329): the valid bit of element `i` at bit `i`. -/
def validBits (n : Nat) (l : List (Option Byte)) : BitVec n :=
  BitVec.ofNat n (bitsToNat (l.map Option.isSome))

end Sys2Proof.Machine
end

