-- ==== Sys2Proof/Machine/Sync.lean ====
section
/-! DEFINITION. The SyncDetector (41_sync.md): the qualifying pulse, SyncStep, and SYNC_RESET. -/

namespace Sys2Proof.Machine

/-- A low pulse of `SYNC_MIN..SYNC_MAX` microseconds, both inclusive (R170). -/
def Entry.isSyncLow (e : Entry) : Bool :=
  !e.lvl && decide (syncMin ≤ e.dur.toNat) && decide (e.dur.toNat ≤ syncMax)

/-- A high pulse of one symbol length, strictly within the tolerance (R170, 92 D6). -/
def Entry.isSyncHigh (e : Entry) : Bool :=
  e.lvl && decide (sym - tol < e.dur.toNat) && decide (e.dur.toNat < sym + tol)

/-- `qual(c)`: the entry at `c` completes a sync block (R170). -/
def State.qual (s : State) (c : Slot) : Bool :=
  (s.ring.read c).isSyncLow && (s.ring.read (previous c)).isSyncHigh

/-- IdleStep, `BC = 0` (R172). -/
def idleStep (c : Slot) (s : State) : State := if s.qual c then s.firstBlock c else s

/-- After a misalignment: start again with this pulse where `SYNC_RESTART` says so (R176). -/
def restartStep (c : Slot) (s : State) : State :=
  if s.params.syncRestart then s.firstBlock c else s

/-- AccumStep, `1 <= BC <= 9` (R173, R174, R175). -/
def accumStep (c : Slot) (s : State) : State :=
  if s.qual c then
    if distance s.lbi c = blockDist then s.acceptBlock c else restartStep c s.clearSync
  else s

/-- ArmedStep, `BC = 10` (R177, R178). -/
def armedStep (c : Slot) (s : State) : State :=
  if distance s.lbi c = readyDist && (s.ring.read c).lvl then s.declareReady else s

/-- `SyncStep(c)`: run the detector on the entry just appended at `c` (R171). On a block count above 10
the spec states no result: the four registers SyncStep may write take a free value (log entry 15). -/
def syncStep (c : Slot) (s : State) : State :=
  if s.bc.toNat = 0 then idleStep c s
  else if s.bc.toNat < nBlocks then accumStep c s
  else if s.bc.toNat = nBlocks then armedStep c s
  else s.withDetector (Config.unspecifiedDetector s)

/-- SYNC_RESET: return the detector to Idle at any time (R180). -/
def execSyncReset (s : State) : Host.Outcome State Fault Refusal := .next s.clearSync.clearReady

end Sys2Proof.Machine
end

