-- ==== Sys2Proof/Machine/Capture.lean ====
section
/-! DEFINITION. RingCapture: the EDGE transaction (40_capture.md R144 to R148). -/

namespace Sys2Proof.Machine

/-- EDGE: dropped while READY (R145), folded up to the glitch threshold (R146), else appended, the
detector then running on the slot just written (R147, R148). -/
def execEdge (lvl : Bool) (dur : Dur) (s : State) : Host.Outcome State Fault Refusal :=
  if s.ready then .next s
  else if dur.toNat ≤ glitch then .next (s.fold dur)
  else .next (syncStep s.wr (s.append { dur := dur, lvl := lvl }))

end Sys2Proof.Machine
end

