-- ==== Sys2Proof/Machine/Symbol.lean ====
section
/-! DEFINITION. SymbolDecoder: classify a pulse, read the frame slice (42_symbol.md). -/

namespace Sys2Proof.Machine

/-- The symbols (00_scope.md R12). -/
inductive Symbol where
  /-- `'0'` -/
  | zero
  /-- `'1'` -/
  | one
  /-- `B`, BlockGap -/
  | blockGap
  /-- `M`, MessageGap -/
  | messageGap
  /-- `E`, Error -/
  | error
deriving DecidableEq, Repr

/-- `sym(0) = '0'`, `sym(1) = '1'` (R200). -/
def levelSymbol (lvl : Bool) : Symbol := if lvl then .one else .zero

/-- `classify(e)`: the symbols of one entry (R200). -/
def classify (e : Entry) : List Symbol :=
  if sym - tol < e.dur.toNat && e.dur.toNat < sym + tol then [levelSymbol e.lvl]
  else if 2 * sym - tol < e.dur.toNat && e.dur.toNat < 2 * sym + tol then
    [levelSymbol e.lvl, levelSymbol e.lvl]
  else if syncMin ≤ e.dur.toNat && e.dur.toNat ≤ syncMax then [.blockGap]
  else if syncMax < e.dur.toNat then [.messageGap]
  else [.error]

/-- The symbols of a run of entries, in order (R202). -/
def symbolsOf : List Entry → List Symbol
  | [] => []
  | e :: es => classify e ++ symbolsOf es

/-- The entries of the frame slice, in slice order (R201). -/
def State.frameEntries (s : State) : List Entry := s.slice.map s.ring.read

/-- The tri-bit string `S` (R202). -/
def State.triBitString (s : State) : List Symbol := symbolsOf s.frameEntries

end Sys2Proof.Machine
end

