-- ==== Sys2Proof/Machine/Frame.lean ====
section
/-! DEFINITION. FrameSplitter: split the tri-bit string into ten Words and decode each
(43_frame.md R220 to R226). -/

namespace Sys2Proof.Machine

/-- How far into `S` its first sync token `'1'`, `B` stands. -/
def tokenOffset : List Symbol → Option Nat
  | [] => none
  | x :: rest =>
    if x = .one ∧ rest.head? = some .blockGap then some 0 else (tokenOffset rest).map (· + 1)

/-- `findToken(S, pos)`: the next sync token at or after `pos` (R220). -/
def findToken (S : List Symbol) (pos : Nat) : Option Nat :=
  (tokenOffset (S.drop pos)).map (pos + ·)

/-- `S[i .. j)` (00_scope.md R9). -/
def subSeq (S : List Symbol) (i j : Nat) : List Symbol := (S.take j).drop i

/-- A triplet's bit: `"110"` is 0, `"100"` is 1, any other is invalid (R224). -/
def tripletBit : Symbol → Symbol → Symbol → Option Bool
  | .one, .one, .zero => some false
  | .one, .zero, .zero => some true
  | _, _, _ => none

/-- The bits of a segment, one per triplet at fixed positions 0, 3, 6, ...; one bad triplet discards
them all (R224). -/
def tripletBits : List Symbol → Option (List Bool)
  | [] => some []
  | a :: b :: c :: rest =>
    match tripletBit a b c, tripletBits rest with
    | some t, some ts => some (t :: ts)
    | _, _ => none
  | _ => none

/-- `DecodeWord(raw)`: trim the six trailing symbols (R222), check length and `E` (R223), read the
triplets (R224), and weigh the first transmitted bit least (R225). `none` is the empty Word. -/
def decodeWord (raw : List Symbol) : Option Byte :=
  if raw.length < trailSyms then none
  else
    let seg := raw.take (raw.length - trailSyms)
    if seg.length ≠ wordSyms ∨ Symbol.error ∈ seg then none
    else (tripletBits seg).map fun ts => BitVec.ofNat 8 (bitsToNat ts)

/-- `Split(S)` with `n` Words still to come and the search at `pos` (R221, R226). -/
def splitFrom (S : List Symbol) : Nat → Nat → List (Option Byte)
  | 0, _ => []
  | n + 1, pos =>
    match findToken S pos with
    | none => decodeWord (subSeq S pos S.length) :: splitFrom S n S.length
    | some t => decodeWord (subSeq S pos t) :: splitFrom S n (t + 2)

/-- `Split(S)`: the ten Words `W[0..9]` (R221). -/
def split (S : List Symbol) : List (Option Byte) := splitFrom S nWords 0

end Sys2Proof.Machine
end

