-- ==== Sys2Proof/Machine/Redundancy.lean ====
section
/-! DEFINITION. RedundancyResolver: merge the two copies of each byte (44_redundancy.md). -/

namespace Sys2Proof.Machine

/-- `resolve(a, b)`: merge two copies of one byte (R250). -/
def resolve : Option Byte → Option Byte → Option Byte
  | some a, some b => if a = b then some a else none
  | none, some b => some b
  | some a, none => some a
  | none, none => none

/-- `W[i]`; a Word that is not there is empty. -/
def wordAt (W : List (Option Byte)) (i : Nat) : Option Byte := W.getD i none

/-- The alignment heuristic: Words 0 and 1 are both non-empty and unequal (R252). -/
def alignmentShifted (W : List (Option Byte)) : Bool :=
  match wordAt W 0, wordAt W 1 with
  | some a, some b => a != b
  | _, _ => false

/-- The default pairing `(W0,W1), (W2,W3), ...` (R251). -/
def defaultPairing (W : List (Option Byte)) : List (Option Byte) :=
  [resolve (wordAt W 0) (wordAt W 1), resolve (wordAt W 2) (wordAt W 3),
   resolve (wordAt W 4) (wordAt W 5), resolve (wordAt W 6) (wordAt W 7),
   resolve (wordAt W 8) (wordAt W 9)]

/-- The shifted pairing `(empty,W0), (W1,W2), ...`; `W9` is dropped (R253). -/
def shiftedPairing (W : List (Option Byte)) : List (Option Byte) :=
  [resolve none (wordAt W 0), resolve (wordAt W 1) (wordAt W 2),
   resolve (wordAt W 3) (wordAt W 4), resolve (wordAt W 5) (wordAt W 6),
   resolve (wordAt W 7) (wordAt W 8)]

/-- `Merge(W)`: the five bytes `Bk[0..4]` and the bit `SHIFTED` (R254). -/
def merge (W : List (Option Byte)) : List (Option Byte) × Bool :=
  if alignmentShifted W then (shiftedPairing W, true) else (defaultPairing W, false)

end Sys2Proof.Machine
end

