-- ==== Sys2Proof/Machine/Command.lean ====
section
/-! DEFINITION. CommandDecoder: field extraction, code maps, emission, repeat suppression
(45_command.md). -/

namespace Sys2Proof.Machine

/-- The sender types (R272; 30_encoding.md R107). -/
inductive SenderType where
  | plain
  | sunSensor
  | centralUnit
  | unrecognized
deriving DecidableEq, Repr

/-- The actions (R277; 30_encoding.md R108). -/
inductive Action where
  | stop
  | up
  | down
  | sunDown
  | sunUp
  | sunInst
  | test
  | unrecognized
deriving DecidableEq, Repr

/-- `disp(b)`: the bits of a byte, most significant first (00_scope.md R10). -/
def disp (b : Byte) : List Bool :=
  [b.getLsbD 7, b.getLsbD 6, b.getLsbD 5, b.getLsbD 4, b.getLsbD 3, b.getLsbD 2, b.getLsbD 1,
   b.getLsbD 0]

/-- The "integer value" of a slice of a display string: a binary numeral whose first character is the
most significant (R10). -/
def numeral (bits : List Bool) : Nat := bits.foldl (fun n b => 2 * n + b.toNat) 0

/-- `lead(b) = b >> (8 - LEAD_W)` (R271). -/
def lead (p : Config) (b : Byte) : Byte := b >>> (8 - p.leadW.bits)

/-- `tail(b) = b mod 2^(8 - LEAD_W)` (R271). -/
def tail (p : Config) (b : Byte) : Byte := BitVec.ofNat 8 (b.toNat % 2 ^ (8 - p.leadW.bits))

/-- `T(x)`, the sender-type codes (R272). -/
def senderType (x : Byte) : SenderType :=
  if x = 1#8 then .plain
  else if x = 2#8 then .sunSensor
  else if x = 8#8 then .centralUnit
  else .unrecognized

/-- `A(x)`, the action codes (R277). -/
def actionOf (x : Byte) : Action :=
  if x = 3#8 then .stop
  else if x = 4#8 then .up
  else if x = 5#8 then .down
  else if x = 6#8 then .sunDown
  else if x = 7#8 then .sunUp
  else if x = 8#8 then .sunInst
  else if x = 15#8 then .test
  else .unrecognized

/-- `member` from its code (R275): the subtraction wraps modulo 256. -/
def memberOf (t : SenderType) (m : Byte) : Byte :=
  if t = .centralUnit ∧ m ≠ 0#8 then m - memberOffset else 0#8

/-- The five bytes of a frame, all valid: `b0..b4` of R270. -/
structure FrameBytes where
  b0 : Byte
  b1 : Byte
  b2 : Byte
  b3 : Byte
  b4 : Byte
deriving DecidableEq, Repr

/-- All five bytes, when none is lost (R270). -/
def allValid : List (Option Byte) → Option FrameBytes
  | [some b0, some b1, some b2, some b3, some b4] => some ⟨b0, b1, b2, b3, b4⟩
  | _ => none

/-- The Command of five valid bytes, in raw codes (R271 to R277; 30_encoding.md R109). -/
def commandOf (p : Config) (f : FrameBytes) : Command :=
  { typ := lead p f.b0
    id0 := f.b0
    id1 := f.b1
    id2 := f.b2
    counter := lead p f.b3
    member := memberOf (senderType (lead p f.b0)) (tail p f.b3)
    group := lead p f.b4
    action := tail p f.b4 }

/-- The Command's `(counter, id)` is the key of the last emitted one; before the first emit there is
none (R278; 10_state.md R39). -/
def State.repeatsKey (s : State) (c : Command) : Bool :=
  s.dedupValid && c.counter == s.lastCounter && c.id0 == s.lastId0 && c.id1 == s.lastId1
    && c.id2 == s.lastId2

/-- The repeat clause of the emission predicate fails: a CentralUnit Command with the last key (R278). -/
def State.suppresses (s : State) (c : Command) : Bool :=
  s.repeatsKey c && senderType c.typ == .centralUnit

/-- Present a Command on the output register and update the DedupState (R279, R280). -/
def State.emit (s : State) (c : Command) : State :=
  { s with
    cmdValid := true
    cmd := c
    dedupValid := true
    lastCounter := c.counter
    lastId0 := c.id0
    lastId1 := c.id1
    lastId2 := c.id2 }

/-- The outcome of the stage, in the priority order of 60_exceptions.md R328, with the Command that
is emitted, if one is (R280). -/
def commandOutcome (s : State) (bytes : List (Option Byte)) : DecStatus × Option Command :=
  match allValid bytes with
  | none => (.byteLost, none)
  | some f =>
    let c := commandOf s.params f
    if senderType c.typ = .unrecognized then (.unrecType, none)
    else if actionOf c.action = .unrecognized then (.unrecAction, none)
    else if s.suppresses c then (.suppressed, none)
    else (.emitted, some c)

/-- `DEC_STATUS <- CommandStage(Bk)` (R280). -/
def commandStage (bytes : List (Option Byte)) (s : State) : State :=
  match commandOutcome s bytes with
  | (d, none) => { s with decStatus := d.code }
  | (d, some c) => { s.emit c with decStatus := d.code }

end Sys2Proof.Machine
end

