-- ==== Sys2Proof/Machine/DecodeEngine.lean ====
section
/-! DEFINITION. The decode engine (DECODE), the command hand-off (CMD_ACCEPT), IDLE and the reserved
codes (46_decode_engine.md R301 to R304; 30_encoding.md R95). -/

namespace Sys2Proof.Machine

/-- The ten Words of the pending frame (R301). -/
def State.frameWords (s : State) : List (Option Byte) := split s.triBitString

/-- The five bytes of the pending frame (R301). -/
def State.frameBytes (s : State) : List (Option Byte) := (merge s.frameWords).1

/-- Write the per-frame detail registers (60_exceptions.md R329). -/
def State.recordDetail (s : State) (W Bk : List (Option Byte)) (sh : Bool) : State :=
  { s with wordValid := validBits 10 W, byteValid := validBits 5 Bk, shifted := sh }

/-- The body of DECODE (R301): decode the slice, record the detail, run the command stage, clear the
detector and re-enable capture. -/
def decodeFrame (s : State) : State :=
  (commandStage s.frameBytes
    (s.recordDetail s.frameWords s.frameBytes (merge s.frameWords).2)).clearSync.clearReady

/-- DECODE: consume the pending frame where it is enabled (R301). A trace that lists it elsewhere
describes no run (30_encoding.md R95 (c)). -/
def execDecode (s : State) : Host.Outcome State Fault Refusal :=
  if s.decodeEnabled then .next (decodeFrame s) else .refused .decodeNotEnabled

/-- CMD_ACCEPT: the Sink takes the Command (R303). -/
def execCmdAccept (s : State) : Host.Outcome State Fault Refusal :=
  .next { s with cmdValid := false }

/-- IDLE: no state changes (R304). -/
def execIdle (s : State) : Host.Outcome State Fault Refusal := .next s

/-- Reserved op 110 behaves as IDLE (R304; 30_encoding.md R95 (a)). -/
def execReserved110 (s : State) : Host.Outcome State Fault Refusal := .next s

/-- Reserved op 111 behaves as IDLE (R304; 30_encoding.md R95 (a)). -/
def execReserved111 (s : State) : Host.Outcome State Fault Refusal := .next s

end Sys2Proof.Machine
end

