-- ==== Sys2Proof/Machine/Reset.lean ====
section
/-! DEFINITION. RESET (70_reset_and_hazards.md R350, R351). -/

namespace Sys2Proof.Machine

/-- RESET: every element of R30 to its reset value (R350). "RESET does not change" the parameters
(R351), nor what the environment has yet to present. -/
def execReset (s : State) : Host.Outcome State Fault Refusal :=
  .next
    { s with
      ring := []
      wr := 0
      bc := 0
      start := 0
      lbi := 0
      ready := false
      cmdValid := false
      cmd := Command.zero
      dedupValid := false
      lastCounter := 0#8
      lastId0 := 0#8
      lastId1 := 0#8
      lastId2 := 0#8
      decStatus := 0#3
      wordValid := 0#10
      byteValid := 0#5
      shifted := false }

end Sys2Proof.Machine
end

