-- ==== Sys2Proof/Machine/Dispatch.lean ====
section
/-! DEFINITION. One arm per transaction. -/

namespace Sys2Proof.Machine

def exec (i : Instr) (s : State) : Host.Outcome State Fault Refusal :=
  match i with
  | .idle => Sys2Proof.Machine.execIdle s
  | .edge lvl dur => Sys2Proof.Machine.execEdge lvl dur s
  | .syncReset => Sys2Proof.Machine.execSyncReset s
  | .cmdAccept => Sys2Proof.Machine.execCmdAccept s
  | .reset => Sys2Proof.Machine.execReset s
  | .decode => Sys2Proof.Machine.execDecode s
  | .reserved110 => Sys2Proof.Machine.execReserved110 s
  | .reserved111 => Sys2Proof.Machine.execReserved111 s

end Sys2Proof.Machine
end

