-- ==== Sys2Proof/Machine/Fetch.lean ====
section
/-! DEFINITION. Which transaction comes next (46_decode_engine.md R305, R309). The block fetches no
instructions (20_memory.md R70): the next transaction is the next word of the trace. -/

namespace Sys2Proof.Machine

/-- The next transaction, and the state with it taken off the trace. When the trace is exhausted the
run is not over while DECODE is enabled: "One more DECODE step ends it" (R309); after that nothing is
presented, which is IDLE (R304). -/
def fetch (s : State) : Instr × State :=
  match s.trace with
  | w :: rest => (decode w, { s with trace := rest })
  | [] => (if s.decodeEnabled then .decode else .idle, s)

/-- Put one more word before those still to come. -/
def State.presentNext (s : State) (w : TxnWord) : State := { s with trace := w :: s.trace }

end Sys2Proof.Machine
end

