-- ==== Sys2Proof/Machine/Step.lean ====
section
/-! DEFINITION. One step: one atomic transaction (46_decode_engine.md R305 (a)). -/

namespace Sys2Proof.Machine

/-- Take the next transaction and run it. -/
def step (s : State) : Host.Outcome State Fault Refusal := exec (fetch s).1 (fetch s).2

/-- The state in which the given word is the next one presented. The word has 36 bits (R93), so bits
from 36 up are dropped. -/
def State.withFetchWord (s : State) (nbits w : Nat) : State :=
  s.presentNext (BitVec.ofNat 36 (w % 2 ^ nbits))

end Sys2Proof.Machine
end

