-- ==== Sys2Proof/Machine/Conditions.lean ====
section
/-! DEFINITION. The conditions a transaction meets (60_exceptions.md R320 to R330): what the
pseudocode's `cond X` records. "It changes nothing except the status registers that rule names"
(00_scope.md R11), so a condition is a view of a step, not state. -/

namespace Sys2Proof.Machine

/-- The taxonomy of R320. -/
inductive Condition where
  | glitch
  | syncMisalignment
  | symbolError
  /-- of Word `i` -/
  | wordCorruption (i : Nat)
  /-- of byte `k` -/
  | irreconcilableByte (k : Nat)
  | unrecognizedField
  | repeatSuppressed
deriving DecidableEq, Repr

/-- The conditions of an EDGE: Glitch on a fold (R321), SyncMisalignment on a qualifying pulse at the
wrong distance in the Accumulating phase (R322). -/
def edgeConditions (lvl : Bool) (dur : Dur) (s : State) : List Condition :=
  if s.ready then []
  else if dur.toNat ≤ Sys2Proof.glitch then [.glitch]
  else
    let t := s.append { dur := dur, lvl := lvl }
    if s.bc.toNat ≠ 0 ∧ s.bc.toNat < nBlocks ∧ t.qual s.wr ∧ distance s.lbi s.wr ≠ blockDist then
      [.syncMisalignment]
    else []

/-- The numbers, from `i` on, of the empty elements of a list. -/
def emptyFrom : Nat → List (Option Byte) → List Nat
  | _, [] => []
  | i, some _ :: l => emptyFrom (i + 1) l
  | i, none :: l => i :: emptyFrom (i + 1) l

/-- The condition an outcome stands for, if it stands for one (R326, R327). -/
def outcomeConditions : DecStatus → List Condition
  | .none => []
  | .emitted => []
  | .suppressed => [.repeatSuppressed]
  | .byteLost => []
  | .unrecType => [.unrecognizedField]
  | .unrecAction => [.unrecognizedField]

/-- The conditions of a DECODE: SymbolError (R323), WordCorruption of each empty Word (R324),
IrreconcilableByte of each empty byte (R325), and that of the outcome (R326, R327). -/
def decodeConditions (s : State) : List Condition :=
  if s.decodeEnabled then
    (if Symbol.error ∈ s.triBitString then [.symbolError] else [])
      ++ ((emptyFrom 0 s.frameWords).map .wordCorruption
      ++ ((emptyFrom 0 s.frameBytes).map .irreconcilableByte
      ++ outcomeConditions (commandOutcome s s.frameBytes).1))
  else []

/-- The conditions a transaction meets in a state. -/
def conditionsOf (i : Instr) (s : State) : List Condition :=
  match i with
  | .idle => []
  | .edge lvl dur => edgeConditions lvl dur s
  | .syncReset => []
  | .cmdAccept => []
  | .reset => []
  | .decode => decodeConditions s
  | .reserved110 => []
  | .reserved111 => []

end Sys2Proof.Machine
end

