-- ==== Sys2Proof/Machine/Ports.lean ====
section
/-! DEFINITION. The block's ports (30_encoding.md R90, R96 to R98) and agents
(46_decode_engine.md R300). Each output is a view of a register; each input strobe is a transaction. -/

namespace Sys2Proof.Machine

/-- `frame_ready` (R97). -/
def State.frameReady (s : State) : Bool := s.ready

/-- `cmd_valid` (R97). -/
def State.cmdValidPort (s : State) : Bool := s.cmdValid

/-- `cmd_data`, the 64-bit CMD word, `CMD_TYPE` at the top (R97). -/
def State.cmdData (s : State) : BitVec 64 :=
  BitVec.cast (by decide) <| s.cmd.typ ++ (s.cmd.id0 ++ (s.cmd.id1 ++ (s.cmd.id2 ++ (s.cmd.counter ++ (s.cmd.member ++
    (s.cmd.group ++ s.cmd.action))))))

/-- `stat`, the 26-bit STAT word, `WORD_VALID` at the top (R98). -/
def State.stat (s : State) : BitVec 26 :=
  BitVec.cast (by decide) <| s.wordValid ++ (s.byteValid ++ (s.decStatus ++ (BitVec.ofBool s.shifted ++
    (BitVec.ofBool s.dedupValid ++ (BitVec.ofBool s.cmdValid ++ (BitVec.ofBool s.ready ++
      s.bc))))))

/-- One cycle's input strobes and operands (R90). -/
structure PortCycle where
  rst : Bool
  sync_reset : Bool
  edge_valid : Bool
  edge_dur : Dur
  edge_lvl : Bool
  cmd_accept : Bool
deriving DecidableEq, Repr

/-- The transactions of one cycle (R96): `rst` alone; otherwise `sync_reset`, `edge_valid` and
`cmd_accept` in that order; with no strobe, IDLE ("the environment presents no transaction", R94). -/
def PortCycle.transactions (c : PortCycle) : List Instr :=
  if c.rst then [.reset]
  else if !c.sync_reset && !c.edge_valid && !c.cmd_accept then [.idle]
  else (if c.sync_reset then [.syncReset] else [])
    ++ ((if c.edge_valid then [.edge c.edge_lvl c.edge_dur] else [])
    ++ (if c.cmd_accept then [.cmdAccept] else []))

/-- The state after the environment has presented one more cycle: its transactions follow those still
to come. -/
def State.presentCycle (s : State) (c : PortCycle) : State :=
  { s with trace := s.trace ++ c.transactions.map encode }

/-- The agents (R300). -/
inductive Agent where
  | edgeSource
  | decodeEngine
  | sink
  | host
deriving DecidableEq, Repr

/-- The agent that presents a transaction (R300); IDLE and the reserved codes are nobody's (R94). -/
def agentOf : Instr → Option Agent
  | .idle => none
  | .edge _ _ => some .edgeSource
  | .syncReset => some .host
  | .cmdAccept => some .sink
  | .reset => some .host
  | .decode => some .decodeEngine
  | .reserved110 => none
  | .reserved111 => none

end Sys2Proof.Machine
end

