-- ==== Sys2Proof/Machine/PseudoOps.lean ====
section
/-! DEFINITION. The trace text's lines and pseudo-operations (30_encoding.md R110, R111): "the block
sees the expansion". -/

namespace Sys2Proof.Machine

/-- `EDGE <dur>, H` / `EDGE <dur>, L`. -/
def edgeLine (dur : Nat) (lvl : Bool) : Instr := .edge lvl (BitVec.ofNat 32 dur)

/-- `SYNC`: `EDGE 400, H` ; `EDGE 3200, L`. -/
def syncOps : List Instr := [edgeLine 400 true, edgeLine 3200 false]

/-- `BIT0`: `EDGE 800, H` ; `EDGE 400, L`. `BIT1`: `EDGE 400, H` ; `EDGE 800, L`. -/
def bitOps : Bool → List Instr
  | false => [edgeLine 800 true, edgeLine 400 false]
  | true => [edgeLine 400 true, edgeLine 800 false]

/-- The bits of a byte in transmission order, `b[0]` first. -/
def txBits (b : Byte) : List Bool :=
  [b.getLsbD 0, b.getLsbD 1, b.getLsbD 2, b.getLsbD 3, b.getLsbD 4, b.getLsbD 5, b.getLsbD 6,
   b.getLsbD 7]

/-- `WORD b`: the eight bits, then `BIT0`, `BIT0` for the parity and check tri-bits. -/
def wordOps (b : Byte) : List Instr := (txBits b ++ [false, false]).flatMap bitOps

/-- `FRAME b0,b1,b2,b3,b4`: each byte twice, each copy after a `SYNC`, then the high pulse of the
11th sync block. -/
def frameOps (f : FrameBytes) : List Instr :=
  [f.b0, f.b0, f.b1, f.b1, f.b2, f.b2, f.b3, f.b3, f.b4, f.b4].flatMap
    (fun b => syncOps ++ wordOps b) ++ [edgeLine 400 true]

/-- The pulse of an EDGE, the entry it appends when it is appended. -/
def pulseOf : Instr → Option Entry
  | .idle => none
  | .edge lvl dur => some { dur := dur, lvl := lvl }
  | .syncReset => none
  | .cmdAccept => none
  | .reset => none
  | .decode => none
  | .reserved110 => none
  | .reserved111 => none

/-- The expansion of a line; an ill-formed line has none. -/
def expand (l : Line) : Option (List Instr) :=
  if l.wellFormed then
    some (match l with
      | .idle => [.idle]
      | .edge dur lvl => [edgeLine dur lvl]
      | .syncReset => [.syncReset]
      | .cmdAccept => [.cmdAccept]
      | .reset => [.reset]
      | .decode => [.decode]
      | .sync => syncOps
      | .bit0 => bitOps false
      | .bit1 => bitOps true
      | .word b => wordOps (BitVec.ofNat 8 b)
      | .frame b0 b1 b2 b3 b4 =>
        frameOps ⟨BitVec.ofNat 8 b0, BitVec.ofNat 8 b1, BitVec.ofNat 8 b2, BitVec.ofNat 8 b3,
          BitVec.ofNat 8 b4⟩
      | .glitch d => [edgeLine d false])
  else none

end Sys2Proof.Machine
end

