-- ==== Sys2Proof/Safety.lean ====
section
/-! DEFINITION. The terms the claims use: the launch premise of R352, the invariants of 10_state.md R42 and two of the model's
own, the agreement of two states on a group of registers, and the qualifying pulse in numbers. -/

namespace Sys2Proof.Machine

/-- The launch premise of 70_reset_and_hazards.md R352, "the run began with RESET": RESET was taken in the
state `before`, of which nothing is assumed, and `s` is reached from there by some number of steps. -/
def State.LaunchedFrom (before s : State) : Prop :=
  ∃ (start : State) (n : Nat), exec .reset before = .next start ∧ Sys2Proof.core.run n start = .next s

/-- `s` is a state of some run that began with RESET (R352). -/
def State.Launched (s : State) : Prop := ∃ before : State, before.LaunchedFrom s

/-- I1, I2, I3 and I5 of R42, and the canonical form of the ring. I4 (`WR`, `START`, `LBI` in
`0..CAP-1`) holds by the types of the fields (log entry 5). -/
abbrev State.Inv (s : State) : Prop :=
  s.ring.wf = true
    ∧ (s.ready = true → s.bc.toNat = 10)
    ∧ (s.bc.toNat = 0 → s.start.val = 0 ∧ s.lbi.val = 0)
    ∧ (1 ≤ s.bc.toNat → s.lbi.val = (s.start.val + 22 * (s.bc.toNat - 1)) % 1000)
    ∧ s.bc.toNat ≤ 10

/-- What the command register, the DedupState and the status registers say of each other, in every
state that a run reaches (derived from 45_command.md R278 to R280, 46_decode_engine.md R301 to R303,
60_exceptions.md R328): the register holds the last emitted Command, whose key is the DedupState's and
whose codes are recognised, and the detail registers tell of the same frame as `DEC_STATUS`. -/
abbrev State.Coherent (s : State) : Prop :=
  (s.cmdValid = true → s.dedupValid = true)
    ∧ (s.dedupValid = true →
        s.lastCounter = s.cmd.counter ∧ s.lastId0 = s.cmd.id0 ∧ s.lastId1 = s.cmd.id1
          ∧ s.lastId2 = s.cmd.id2 ∧ s.cmd.typ = lead s.params s.cmd.id0
          ∧ senderType s.cmd.typ ≠ .unrecognized ∧ actionOf s.cmd.action ≠ .unrecognized)
    ∧ (s.dedupValid = false → s.cmd = Command.zero)
    ∧ (s.decStatus = DecStatus.none.code →
        s.dedupValid = false ∧ s.wordValid = 0#10 ∧ s.byteValid = 0#5 ∧ s.shifted = false)
    ∧ (s.decStatus = DecStatus.byteLost.code → s.byteValid ≠ 0x1F#5)
    ∧ (s.decStatus ≠ DecStatus.none.code → s.decStatus ≠ DecStatus.byteLost.code →
        s.byteValid = 0x1F#5)
    ∧ (s.decStatus = DecStatus.emitted.code → s.dedupValid = true)
    ∧ (s.decStatus = DecStatus.suppressed.code →
        s.dedupValid = true ∧ senderType s.cmd.typ = .centralUnit)
    ∧ (s.shifted = true →
        s.wordValid.getLsbD 0 = true ∧ s.wordValid.getLsbD 1 = true ∧ s.byteValid.getLsbD 0 = true)
    ∧ s.decStatus.toNat ≤ 5

/-- Two states agree on the ring, slot by slot, and on the cursor. -/
def SameRing (s t : State) : Prop := (∀ i : Slot, t.ring.read i = s.ring.read i) ∧ t.wr = s.wr

/-- Two states agree on the detector's registers (R33 to R36). -/
abbrev SameDetector (s t : State) : Prop :=
  t.bc = s.bc ∧ t.start = s.start ∧ t.lbi = s.lbi ∧ t.ready = s.ready

/-- Two states agree on the command register (R38). -/
abbrev SameCommand (s t : State) : Prop := t.cmdValid = s.cmdValid ∧ t.cmd = s.cmd

/-- Two states agree on the DedupState (R39). -/
abbrev SameDedup (s t : State) : Prop :=
  t.dedupValid = s.dedupValid ∧ t.lastCounter = s.lastCounter ∧ t.lastId0 = s.lastId0
    ∧ t.lastId1 = s.lastId1 ∧ t.lastId2 = s.lastId2

/-- Two states agree on the status registers (R40). -/
abbrev SameStatus (s t : State) : Prop :=
  t.decStatus = s.decStatus ∧ t.wordValid = s.wordValid ∧ t.byteValid = s.byteValid
    ∧ t.shifted = s.shifted

/-- Two states agree on the model's own fields. -/
abbrev SameOwn (s t : State) : Prop := t.params = s.params ∧ t.trace = s.trace

/-- An EDGE of this level and duration completes a sync block when it is appended: the numbers of
41_sync.md R170. -/
abbrev SyncPulse (s : State) (lvl : Bool) (dur : Dur) : Prop :=
  lvl = false ∧ 2750 ≤ dur.toNat ∧ dur.toNat ≤ 3650
    ∧ (s.ring.read (previous s.wr)).lvl = true
    ∧ 200 < (s.ring.read (previous s.wr)).dur.toNat ∧ (s.ring.read (previous s.wr)).dur.toNat < 600

/-- An EDGE of this duration is appended: capture is enabled and the pulse is no glitch (R147). -/
abbrev Appends (s : State) (dur : Dur) : Prop := s.ready = false ∧ 50 < dur.toNat

/-- The slot an EDGE stores to, if it stores (R62): none while READY, the most recent entry on a fold,
the cursor's on an append. -/
def edgeStoreSlot (dur : Dur) (s : State) : Option Slot :=
  if s.ready then none else if dur.toNat ≤ Sys2Proof.glitch then some (previous s.wr) else some s.wr

/-- A sync token `'1'`, `B` stands at position `t` of `S` (43_frame.md R220). -/
abbrev IsToken (S : List Symbol) (t : Nat) : Prop :=
  S[t]? = some Symbol.one ∧ S[t + 1]? = some Symbol.blockGap

/-- The three symbols that carry a bit: `"100"` is 1, `"110"` is 0 (30_encoding.md R100). -/
def triBitSymbols (b : Bool) : List Symbol :=
  if b then [.one, .zero, .zero] else [.one, .one, .zero]

/-- The pulses of a clean transmission between its first sync block and its 11th: the 218 entries of
30_encoding.md R104, taken from the expansion of `FRAME`. -/
def cleanFramePulses (f : FrameBytes) : List Entry :=
  (((frameOps f).filterMap pulseOf).drop 2).take 218

/-- The ten Words of a clean transmission: each byte twice (R104, R105). -/
def cleanFrameWords (f : FrameBytes) : List (Option Byte) :=
  [some f.b0, some f.b0, some f.b1, some f.b1, some f.b2, some f.b2, some f.b3, some f.b3,
   some f.b4, some f.b4]

/-- The five bytes, all valid. -/
def validBytes (f : FrameBytes) : List (Option Byte) :=
  [some f.b0, some f.b1, some f.b2, some f.b3, some f.b4]

/-- A sender-type code the spec recognises (30_encoding.md R107). -/
abbrev RecognisedType (x : Byte) : Prop := x = 1#8 ∨ x = 2#8 ∨ x = 8#8

/-- An action code the spec recognises (30_encoding.md R108). -/
abbrev RecognisedAction (x : Byte) : Prop :=
  x = 3#8 ∨ x = 4#8 ∨ x = 5#8 ∨ x = 6#8 ∨ x = 7#8 ∨ x = 8#8 ∨ x = 15#8

/-- The last clause of the emission predicate of 45_command.md R278, for five valid bytes. -/
abbrev NotSuppressed (s : State) (f : FrameBytes) : Prop :=
  s.dedupValid = false
    ∨ lead s.params f.b3 ≠ s.lastCounter
    ∨ (f.b0 ≠ s.lastId0 ∨ f.b1 ≠ s.lastId1 ∨ f.b2 ≠ s.lastId2)
    ∨ lead s.params f.b0 ≠ 8#8

/-- The emission predicate of 45_command.md R278, for five valid bytes. -/
abbrev Emits (s : State) (f : FrameBytes) : Prop :=
  RecognisedType (lead s.params f.b0) ∧ RecognisedAction (tail s.params f.b4) ∧ NotSuppressed s f

end Sys2Proof.Machine
end

