-- ==== Sys2Proof/Certificates/Slice0/Obligations.lean ====
section
/-! DEFINITION. The statements about the block, from the spec's numbered rules. -/

open Sys2Proof Sys2Proof.Machine

section Encoding

/-- R93, R94: no bit of a transaction is lost between its word and its decoding. -/
def Obligations.DecodeOfEncodeIsTheTransaction : Prop :=
  ∀ i : Instr, Sys2Proof.decode (Sys2Proof.encode i) = i

/-- R93, R95 (b): a word encodes what it decodes to. An EDGE word comes back whole, any other with its
ignored bits [32:0] cleared. -/
def Obligations.EncodeOfDecodeClearsOnlyIgnoredBits : Prop :=
  ∀ w : TxnWord, Sys2Proof.encode (Sys2Proof.decode w) =
    if w &&& 0xE00000000#36 = 0x200000000#36 then w else w &&& 0xE00000000#36

/-- R93, R94 and opcode_table.json: a word's transaction bears the mnemonic of a row exactly when the
word, masked, is the row's match; and an EDGE word's operands are its bits 32 and 31..0. -/
def Obligations.DecodeFollowsTheOpcodeTable : Prop :=
  (∀ (w : TxnWord) (r : OpcodeRow), r ∈ opcodeTable →
      ((Sys2Proof.decode w).mnemonic = r.mnemonic ↔ w &&& r.mask = r.matchBits))
    ∧ ∀ (w : TxnWord) (lvl : Bool) (dur : Dur), Sys2Proof.decode w = .edge lvl dur →
        lvl = w.getLsbD 32 ∧ dur.toNat = w.toNat % 2 ^ 32

/-- Every word of 95_test_vectors.md 2.9 and of R111 decodes to its line, all eighteen of them. -/
def Obligations.SpecWordsDecodeToTheirLines : Prop :=
  Sys2Proof.decode 0x300000190#36 = .edge true 400#32
    ∧ Sys2Proof.decode 0x200000C80#36 = .edge false 3200#32
    ∧ Sys2Proof.decode 0x2000007D0#36 = .edge false 2000#32
    ∧ Sys2Proof.decode 0x20000000A#36 = .edge false 10#32
    ∧ Sys2Proof.decode 0x30000000A#36 = .edge true 10#32
    ∧ Sys2Proof.decode 0x2000001F4#36 = .edge false 500#32
    ∧ Sys2Proof.decode 0x30000001E#36 = .edge true 30#32
    ∧ Sys2Proof.decode 0x20000012C#36 = .edge false 300#32
    ∧ Sys2Proof.decode 0x300000320#36 = .edge true 800#32
    ∧ Sys2Proof.decode 0x200000190#36 = .edge false 400#32
    ∧ Sys2Proof.decode 0x200000320#36 = .edge false 800#32
    ∧ Sys2Proof.decode 0x400000000#36 = .syncReset
    ∧ Sys2Proof.decode 0x400000190#36 = .syncReset
    ∧ Sys2Proof.decode 0x600000000#36 = .cmdAccept
    ∧ Sys2Proof.decode 0x800000000#36 = .reset
    ∧ Sys2Proof.decode 0xA00000000#36 = .decode
    ∧ Sys2Proof.decode 0xC00000000#36 = .reserved110
    ∧ Sys2Proof.decode 0x000000000#36 = .idle

/-- R95, with two choices of the model: (a) the reserved codes change no state (R95 also lets a model
refuse them; that this one does not is its choice, log entry 4); (b) outside EDGE the `lvl` and `dur` bits
have no effect; (c) DECODE where it is not enabled is refused by name (R95 says only that such a trace
describes no run; the refusal is the model's, log entry 3), and no port cycle presents DECODE; (d) every
word is one of the eight codes. -/
def Obligations.ReservedAndIgnoredEncodings : Prop :=
  (∀ s : State, exec .reserved110 s = .next s ∧ exec .reserved111 s = .next s
      ∧ exec .idle s = .next s)
    ∧ (∀ (s : State) (w w' : TxnWord), w &&& 0xE00000000#36 ≠ 0x200000000#36 →
        w &&& 0xE00000000#36 = w' &&& 0xE00000000#36 →
        step (s.presentNext w) = step (s.presentNext w'))
    ∧ (∀ s : State, ¬(s.ready = true ∧ s.cmdValid = false) →
        exec .decode s = .refused .decodeNotEnabled)
    ∧ (∀ (c : PortCycle) (i : Instr), i ∈ c.transactions → i ≠ .decode)
    ∧ (∀ w : TxnWord, (Sys2Proof.decode w).mnemonic ∈
        ["IDLE", "EDGE", "SYNC_RESET", "CMD_ACCEPT", "RESET", "DECODE", "RESERVED_110", "RESERVED_111"])

end Encoding

section Stepping

/-- One step takes the next word off the trace, decodes it and runs it, and adds nothing else (the
model's choice of how transactions are presented, log entry 1). -/
def Obligations.StepRunsTheNextTransaction : Prop :=
  ∀ (s : State) (w : TxnWord) (rest : List TxnWord), s.trace = w :: rest →
    step s = exec (Sys2Proof.decode w) { s with trace := rest }

/-- R309: when the inputs are exhausted and DECODE is still enabled the run is not over, and one more
step, which is DECODE, ends it; when the run has ended, a step changes nothing (the model's choice,
log entry 1). -/
def Obligations.ExhaustedRunEndsWithOneDecode : Prop :=
  ∀ s : State, s.trace = [] →
    (s.decodeEnabled = true →
      s.runEnded = false ∧ ∃ t, step s = exec .decode s ∧ step s = .next t ∧ t.runEnded = true)
    ∧ (s.decodeEnabled = false → s.runEnded = true ∧ step s = .next s)

/-- R331: no transaction faults, in any state; every transaction has a next state, DECODE where it is
enabled; and the parameters never change (R7, R351). -/
def Obligations.EveryTransactionHasANextState : Prop :=
  ∀ (i : Instr) (s : State),
    (∀ f, exec i s ≠ .fault f)
    ∧ ((i = .decode → s.ready = true ∧ s.cmdValid = false) →
        ∃ t, exec i s = .next t ∧ t.params = s.params ∧ t.trace = s.trace)

end Stepping

section RingIndices

/-- R140 to R143: the values of the index functions and the laws the spec gives of them, (d) and (e) of
R143 being inferences it marks as its own. -/
def Obligations.RingIndexLaws : Prop :=
  (∀ i : Slot, (Sys2Proof.Machine.next i).val = (i.val + 1) % 1000
      ∧ (previous i).val = (i.val + 1000 - 1) % 1000)
    ∧ (∀ a b : Slot, (distance a b : Int) = ((b.val : Int) - a.val + 1000) % 1000)
    ∧ (∀ a : Slot, distance a (previous a) = 999)
    ∧ (∀ i : Slot, Sys2Proof.Machine.next (previous i) = i)
    ∧ (∀ i : Slot, previous (Sys2Proof.Machine.next i) = i)
    ∧ (∀ a : Slot, distance a (Sys2Proof.Machine.next a) = 1)
    ∧ (∀ a b : Slot, distance a b + distance b a = if a = b then 0 else 1000)
    ∧ (∀ a b : Slot, distance a b ≤ 1000)

end RingIndices

section Capture

/-- R145: an EDGE while READY changes no state, and nothing is recorded. -/
def Obligations.EdgeWhileReadyIsDropped : Prop :=
  ∀ (lvl : Bool) (dur : Dur) (s : State), s.ready = true →
    exec (.edge lvl dur) s = .next s ∧ conditionsOf (.edge lvl dur) s = [] ∧ s.captureEn = false

/-- R146: a pulse of at most 50 microseconds is folded into the most recent entry, whose level stays;
the sum wraps modulo 2^32; the cursor stays and the detector does not run. -/
def Obligations.GlitchEdgeFoldsIntoTheLastEntry : Prop :=
  ∀ (lvl : Bool) (dur : Dur) (s : State), s.ready = false → dur.toNat ≤ 50 → s.ring.wf = true →
    ∃ t, exec (.edge lvl dur) s = .next t
      ∧ (t.ring.read (previous s.wr)).dur.toNat
          = ((s.ring.read (previous s.wr)).dur.toNat + dur.toNat) % 2 ^ 32
      ∧ (t.ring.read (previous s.wr)).lvl = (s.ring.read (previous s.wr)).lvl
      ∧ (∀ j : Slot, j ≠ previous s.wr → t.ring.read j = s.ring.read j)
      ∧ t.wr = s.wr
      ∧ SameDetector s t ∧ SameCommand s t ∧ SameDedup s t ∧ SameStatus s t ∧ SameOwn s t
      ∧ conditionsOf (.edge lvl dur) s = [.glitch]

/-- R147: a longer pulse is stored at the cursor, every other slot kept, the cursor moves on, and
SyncStep then runs on the slot just written. -/
def Obligations.LongEdgeIsAppended : Prop :=
  ∀ (lvl : Bool) (dur : Dur) (s : State), s.ready = false → 50 < dur.toNat → s.ring.wf = true →
    ∃ u : State, exec (.edge lvl dur) s = .next (syncStep s.wr u)
      ∧ u.ring.read s.wr = { dur := dur, lvl := lvl }
      ∧ (∀ j : Slot, j ≠ s.wr → u.ring.read j = s.ring.read j)
      ∧ u.wr.val = (s.wr.val + 1) % 1000
      ∧ SameDetector s u ∧ SameCommand s u ∧ SameDedup s u ∧ SameStatus s u ∧ SameOwn s u
      ∧ (syncStep s.wr u).ring = u.ring ∧ (syncStep s.wr u).wr = u.wr

/-- The frame of EDGE (R43, R62, R144): it stores to at most one slot, the one `edgeStoreSlot`
computes, and writes no command, dedup or status register. -/
def Obligations.EdgeFrame : Prop :=
  ∀ (lvl : Bool) (dur : Dur) (s : State), s.ring.wf = true →
    ∃ t, exec (.edge lvl dur) s = .next t
      ∧ (∀ a : Slot, edgeStoreSlot dur s = some a →
          ∀ j : Slot, j ≠ a → t.ring.read j = s.ring.read j)
      ∧ (edgeStoreSlot dur s = none → ∀ j : Slot, t.ring.read j = s.ring.read j)
      ∧ SameCommand s t ∧ SameDedup s t ∧ SameStatus s t ∧ SameOwn s t

/-- R64: an entry changes only by a fold while it is the most recent one, by the append that finds the
cursor at its slot, or by RESET. -/
def Obligations.RingEntryChangesInThreeWaysOnly : Prop :=
  ∀ (i : Instr) (s t : State) (j : Slot), s.ring.wf = true → exec i s = .next t →
    t.ring.read j ≠ s.ring.read j →
    (∃ lvl dur, i = .edge lvl dur ∧ s.ready = false ∧ dur.toNat ≤ 50 ∧ j = previous s.wr
        ∧ t.ring.read j = { dur := (s.ring.read j).dur + dur, lvl := (s.ring.read j).lvl })
    ∨ (∃ lvl dur, i = .edge lvl dur ∧ s.ready = false ∧ 50 < dur.toNat ∧ j = s.wr
        ∧ t.ring.read j = { dur := dur, lvl := lvl })
    ∨ (i = .reset ∧ t.ring.read j = { dur := 0#32, lvl := false })

end Capture

section Detector

/-- R170: when the entry just appended completes a sync block. -/
def Obligations.QualifyingSyncPulse : Prop :=
  ∀ (s : State) (c : Slot), s.qual c = true ↔
    (s.ring.read c).lvl = false
      ∧ 2750 ≤ (s.ring.read c).dur.toNat ∧ (s.ring.read c).dur.toNat ≤ 3650
      ∧ (s.ring.read (previous c)).lvl = true
      ∧ 200 < (s.ring.read (previous c)).dur.toNat ∧ (s.ring.read (previous c)).dur.toNat < 600

/-- R172: in Idle, a qualifying pulse locks the detector at the slot after it; any other entry leaves
the detector as it is. -/
def Obligations.IdleEdgeLocksOnASyncPulse : Prop :=
  ∀ (lvl : Bool) (dur : Dur) (s : State), Appends s dur → s.ring.wf = true → s.bc.toNat = 0 →
    ∃ t, exec (.edge lvl dur) s = .next t ∧ conditionsOf (.edge lvl dur) s = []
      ∧ (SyncPulse s lvl dur →
          t.start.val = (s.wr.val + 1) % 1000 ∧ t.lbi.val = (s.wr.val + 1) % 1000 ∧ t.bc.toNat = 1
            ∧ t.ready = s.ready)
      ∧ (¬SyncPulse s lvl dur → SameDetector s t)

/-- R173 to R176: while Accumulating, a qualifying pulse at distance 21 is the next block, one at any
other distance is a misalignment, after which SYNC_RESTART decides; other entries change nothing. -/
def Obligations.AccumulatingEdgeCountsOrMisaligns : Prop :=
  ∀ (lvl : Bool) (dur : Dur) (s : State), Appends s dur → s.ring.wf = true →
    1 ≤ s.bc.toNat → s.bc.toNat ≤ 9 →
    ∃ t, exec (.edge lvl dur) s = .next t ∧ t.ready = s.ready
      ∧ (SyncPulse s lvl dur → distance s.lbi s.wr = 21 →
          t.lbi.val = (s.wr.val + 1) % 1000 ∧ t.bc.toNat = s.bc.toNat + 1 ∧ t.start = s.start
            ∧ conditionsOf (.edge lvl dur) s = [])
      ∧ (SyncPulse s lvl dur → distance s.lbi s.wr ≠ 21 →
          conditionsOf (.edge lvl dur) s = [.syncMisalignment]
            ∧ (s.params.syncRestart = false → t.bc.toNat = 0 ∧ t.start.val = 0 ∧ t.lbi.val = 0)
            ∧ (s.params.syncRestart = true →
                t.bc.toNat = 1 ∧ t.start.val = (s.wr.val + 1) % 1000
                  ∧ t.lbi.val = (s.wr.val + 1) % 1000))
      ∧ (¬SyncPulse s lvl dur → SameDetector s t ∧ conditionsOf (.edge lvl dur) s = [])

/-- R177 (and R178): once Armed, a high entry at distance 20 declares Ready, whatever its duration, and
every other appended entry changes nothing, a qualifying sync pulse included. -/
def Obligations.ArmedEdgeDeclaresReady : Prop :=
  ∀ (lvl : Bool) (dur : Dur) (s : State), Appends s dur → s.ring.wf = true → s.bc.toNat = 10 →
    ∃ t, exec (.edge lvl dur) s = .next t ∧ t.bc = s.bc ∧ t.start = s.start ∧ t.lbi = s.lbi
      ∧ (t.ready = true ↔ distance s.lbi s.wr = 20 ∧ lvl = true)
      ∧ conditionsOf (.edge lvl dur) s = []

/-- R180: SYNC_RESET returns the detector to Idle in any phase, clears READY, and writes nothing else; a
pending frame is no longer enabled for DECODE; where the detector is clear already nothing changes. -/
def Obligations.SyncResetReturnsToIdle : Prop :=
  ∀ s : State, ∃ t, exec .syncReset s = .next t
    ∧ t.bc.toNat = 0 ∧ t.start.val = 0 ∧ t.lbi.val = 0 ∧ t.ready = false
    ∧ SameRing s t ∧ SameCommand s t ∧ SameDedup s t ∧ SameStatus s t ∧ SameOwn s t
    ∧ t.phase = .idle ∧ t.captureEn = true ∧ t.decodeEnabled = false
    ∧ conditionsOf .syncReset s = [] ∧ Sys2Proof.encode .syncReset = 0x400000000#36
    ∧ (s.bc.toNat = 0 → s.start.val = 0 → s.lbi.val = 0 → s.ready = false → t = s)

/-- R33: `BC` is 0 after reset; in a run that began with RESET (R352's launch premise) it is never above
10; and from every legal count a transaction only counts it up by one, takes it to 1 from 0 (at once after
the clear, with SYNC_RESTART), or takes it to 0. -/
def Obligations.BlockCountCountsUpOrClears : Prop :=
  State.reset.bc.toNat = 0 ∧ (∀ s : State, s.Launched → s.bc.toNat ≤ 10)
    ∧ ∀ (i : Instr) (s t : State), s.bc.toNat ≤ 10 → exec i s = .next t →
    t.bc.toNat ≤ 10
      ∧ (t.bc ≠ s.bc →
          t.bc.toNat = 0 ∨ t.bc.toNat = s.bc.toNat + 1 ∨ (t.bc.toNat = 1 ∧ s.params.syncRestart = true))
      ∧ (s.bc.toNat < t.bc.toNat → ∃ lvl dur, i = .edge lvl dur)

/-- R41's table, in every state that meets the detector's invariant. R41 is an inference the spec marks
as its own ("derived: from rules R33, R36 and 41_sync.md rule R171"). -/
def Obligations.PhaseIsAFunctionOfCountAndReady : Prop :=
  ∀ s : State, s.Inv →
    (s.phase = .idle ↔ s.bc.toNat = 0)
      ∧ (s.phase = .accumulating ↔ 1 ≤ s.bc.toNat ∧ s.bc.toNat ≤ 9)
      ∧ (s.phase = .armed ↔ s.bc.toNat = 10 ∧ s.ready = false)
      ∧ (s.phase = .ready ↔ s.ready = true)

/-- R306, an inference the spec marks as its own: the phase cycle. Only an EDGE moves the detector
forward, one phase at a time, or from Accumulating back to Idle; a Ready frame leaves only by DECODE,
SYNC_RESET or RESET; and these, from any phase they act in, lead to Idle. -/
def Obligations.PhaseCycle : Prop :=
  ∀ (i : Instr) (s t : State), s.Inv → exec i s = .next t → t.phase ≠ s.phase →
    ((∃ lvl dur, i = .edge lvl dur)
      ∧ ((s.phase = .idle ∧ t.phase = .accumulating)
        ∨ (s.phase = .accumulating ∧ (t.phase = .armed ∨ t.phase = .idle))
        ∨ (s.phase = .armed ∧ t.phase = .ready)))
    ∨ (i = .decode ∧ s.phase = .ready ∧ t.phase = .idle)
    ∨ ((i = .syncReset ∨ i = .reset) ∧ t.phase = .idle)

end Detector

section SymbolDecoder

/-- R200: the four bands of the classifier and everything outside them; a DECODE meets SymbolError
exactly when some entry of its slice classifies as Error. -/
def Obligations.ClassifierBands : Prop :=
  (∀ e : Entry,
    (200 < e.dur.toNat ∧ e.dur.toNat < 600 → classify e = [if e.lvl then .one else .zero])
      ∧ (600 < e.dur.toNat ∧ e.dur.toNat < 1000 →
          classify e = [if e.lvl then .one else .zero, if e.lvl then .one else .zero])
      ∧ (2750 ≤ e.dur.toNat ∧ e.dur.toNat ≤ 3650 → classify e = [.blockGap])
      ∧ (3650 < e.dur.toNat → classify e = [.messageGap])
      ∧ (e.dur.toNat ≤ 200 ∨ e.dur.toNat = 600 ∨ (1000 ≤ e.dur.toNat ∧ e.dur.toNat < 2750) →
          classify e = [.error]))
    ∧ ∀ s : State, s.decodeEnabled = true →
      (Condition.symbolError ∈ conditionsOf .decode s ↔
        ∃ j ∈ s.slice, classify (s.ring.read j) = [.error])

/-- R203, an inference the spec marks as its own: a sync block of the detector is a low `[B]` after a
single `['1']`, and so a sync token. -/
def Obligations.SyncBlockIsASyncToken : Prop :=
  ∀ (s : State) (c : Slot), s.qual c = true ↔
    classify (s.ring.read c) = [.blockGap] ∧ (s.ring.read c).lvl = false
      ∧ classify (s.ring.read (previous c)) = [.one]

/-- R181 (an inference the spec marks as its own), R201, R202: at Ready the slice is 218 consecutive
slots from START, it ends before the entry at LBI + 20, and the tri-bit string has 218 to 436 symbols. -/
def Obligations.FrameSliceHas218Entries : Prop :=
  ∀ s : State, s.Inv → s.ready = true →
    s.slice.length = 218
      ∧ (∀ k : Nat, k < 218 → s.slice[k]?.map Fin.val = some ((s.start.val + k) % 1000))
      ∧ s.sliceEnd.val = (s.lbi.val + 20) % 1000 ∧ s.sliceEnd.val = (s.start.val + 218) % 1000
      ∧ s.sliceEnd ∉ s.slice
      ∧ 218 ≤ s.triBitString.length ∧ s.triBitString.length ≤ 436

/-- R177, R201, R355: the entry that declares Ready is stored just past the end of the slice, and the
slice is the 218 slots before it, none of which that EDGE wrote. -/
def Obligations.SliceEndsAtTheReadyEntry : Prop :=
  ∀ (lvl : Bool) (dur : Dur) (s t : State), s.Inv → exec (.edge lvl dur) s = .next t →
    s.ready = false → t.ready = true →
    t.sliceEnd = s.wr ∧ t.start.val = (s.wr.val + 1000 - 218) % 1000
      ∧ t.wr.val = (s.wr.val + 1) % 1000
      ∧ t.ring.read s.wr = { dur := dur, lvl := lvl } ∧ lvl = true
      ∧ (∀ j : Slot, j ∈ t.slice → t.ring.read j = s.ring.read j)

/-- R202: DECODE depends on the ring contents of the slice alone. With any other ring that agrees on
the slice it leaves the same state but for the ring, which it does not write. -/
def Obligations.DecodeReadsTheSliceOnly : Prop :=
  ∀ (s : State) (r : Memory), s.decodeEnabled = true →
    (∀ j : Slot, j ∈ s.slice → r.read j = s.ring.read j) →
    ∃ t, exec .decode s = .next t ∧ exec .decode { s with ring := r } = .next { t with ring := r }

end SymbolDecoder

section FrameSplitter

/-- R220: `findToken` answers the least sync token at or after the position, or none. -/
def Obligations.FindTokenIsLeftmost : Prop :=
  ∀ (S : List Symbol) (pos : Nat), pos ≤ S.length →
    (∀ t : Nat, findToken S pos = some t ↔
      pos ≤ t ∧ IsToken S t ∧ ∀ u : Nat, pos ≤ u → u < t → ¬IsToken S u)
    ∧ (findToken S pos = none ↔ ∀ t : Nat, pos ≤ t → ¬IsToken S t)

/-- R222 to R225: a raw segment decodes to a byte exactly when it has 30 symbols and its first 24 are
the byte's eight triplets, the least significant bit first. The last six are never examined. -/
def Obligations.WordDecodesExactlyItsTriplets : Prop :=
  ∀ (raw : List Symbol) (b : Byte), decodeWord raw = some b ↔
    raw.length = 30
      ∧ ∀ k : Nat, k < 8 → (raw.drop (3 * k)).take 3 = triBitSymbols (b.getLsbD k)

/-- R220, R221, R226: raw segments separated by sync tokens are decoded one by one, the first ten of them,
the last one being the rest of the string where no token follows it; Words after the last segment are
empty. A segment may hold a BlockGap that no '1' precedes (R220's corner case): only a token cuts. -/
def Obligations.SplitCutsAtSyncTokens : Prop :=
  ∀ raws : List (List Symbol), raws ≠ [] → (∀ r ∈ raws, ∀ t : Nat, ¬IsToken r t) →
    split ([Symbol.one, Symbol.blockGap].intercalate raws)
      = (raws.take 10).map decodeWord ++ List.replicate (10 - raws.length) none

/-- R100, R104 (inferences the spec marks as its own): the pulses of a clean transmission, at any timing
that classifies the same, decode to the ten Words of its five bytes and merge to the bytes without a
shift, for every five bytes. -/
def Obligations.CleanTransmissionDecodesToItsBytes : Prop :=
  ∀ (f : FrameBytes) (es : List Entry),
    es.map classify = (cleanFramePulses f).map classify →
    split (symbolsOf es) = cleanFrameWords f
      ∧ merge (split (symbolsOf es)) = (validBytes f, false)

end FrameSplitter

section Redundancy

/-- R250: what the merge of two copies is; it is symmetric. -/
def Obligations.ResolveTrustsAgreementOrTheSurvivor : Prop :=
  (∀ a : Byte, resolve (some a) (some a) = some a)
    ∧ (∀ a b : Byte, a ≠ b → resolve (some a) (some b) = none)
    ∧ (∀ b : Byte, resolve none (some b) = some b)
    ∧ (∀ a : Byte, resolve (some a) none = some a)
    ∧ resolve none none = none
    ∧ (∀ a b : Option Byte, resolve a b = resolve b a)
    ∧ (∀ a : Option Byte, resolve a a = a)

/-- R251 to R254: the pairing is shifted exactly when Words 0 and 1 are both valid and unequal; five
bytes result either way. -/
def Obligations.MergePairsWordsByTheHeuristic : Prop :=
  ∀ w0 w1 w2 w3 w4 w5 w6 w7 w8 w9 : Option Byte,
    (w0 ≠ none ∧ w1 ≠ none ∧ w0 ≠ w1 →
      merge [w0, w1, w2, w3, w4, w5, w6, w7, w8, w9]
        = ([resolve none w0, resolve w1 w2, resolve w3 w4, resolve w5 w6, resolve w7 w8], true))
    ∧ (¬(w0 ≠ none ∧ w1 ≠ none ∧ w0 ≠ w1) →
      merge [w0, w1, w2, w3, w4, w5, w6, w7, w8, w9]
        = ([resolve w0 w1, resolve w2 w3, resolve w4 w5, resolve w6 w7, resolve w8 w9], false))

end Redundancy

section CommandDecoder

/-- R271 (with R10): `lead` and `tail` are the integer values of the slices `[0:LEAD_W]` and
`[LEAD_W:8]` of the display string, for both widths. -/
def Obligations.LeadAndTailAreDisplaySlices : Prop :=
  ∀ (p : Config) (b : Byte),
    (lead p b).toNat = numeral ((disp b).take p.leadW.bits)
      ∧ (tail p b).toNat = numeral ((disp b).drop p.leadW.bits)
      ∧ (lead p b).toNat = b.toNat / 2 ^ (8 - p.leadW.bits)
      ∧ (tail p b).toNat = b.toNat % 2 ^ (8 - p.leadW.bits)

/-- R107, R108: the code maps and the fields' ranges; every type code is some byte's; with LEAD_W = 5 the
action codes up to 7 are each some byte's and no byte's trailing field is SunInst or Test, while with 4
every action code is some byte's. -/
def Obligations.CodeMapsAndReachableActions : Prop :=
  (∀ x : Byte, (senderType x = .plain ↔ x = 1#8) ∧ (senderType x = .sunSensor ↔ x = 2#8)
      ∧ (senderType x = .centralUnit ↔ x = 8#8)
      ∧ (senderType x = .unrecognized ↔ ¬RecognisedType x))
    ∧ (∀ x : Byte, (actionOf x = .stop ↔ x = 3#8) ∧ (actionOf x = .up ↔ x = 4#8)
        ∧ (actionOf x = .down ↔ x = 5#8) ∧ (actionOf x = .sunDown ↔ x = 6#8)
        ∧ (actionOf x = .sunUp ↔ x = 7#8) ∧ (actionOf x = .sunInst ↔ x = 8#8)
        ∧ (actionOf x = .test ↔ x = 15#8)
        ∧ (actionOf x = .unrecognized ↔ ¬RecognisedAction x))
    ∧ (∀ (p : Config) (b : Byte), p.leadW = .five → (lead p b).toNat ≤ 31 ∧ (tail p b).toNat ≤ 7)
    ∧ (∀ (p : Config) (b : Byte), p.leadW = .four → (lead p b).toNat ≤ 15 ∧ (tail p b).toNat ≤ 15)
    ∧ (∀ (p : Config) (b : Byte), p.leadW = .five →
        actionOf (tail p b) ≠ .sunInst ∧ actionOf (tail p b) ≠ .test)
    ∧ (∀ (p : Config) (x : Byte), p.leadW = .five → RecognisedAction x → x.toNat ≤ 7 →
        ∃ b, tail p b = x)
    ∧ (∀ (p : Config) (x : Byte), p.leadW = .four → RecognisedAction x → ∃ b, tail p b = x)
    ∧ (∀ (p : Config) (x : Byte), RecognisedType x → ∃ b, lead p b = x)

/-- R275: the member field of a Command: the member code less 7, modulo 256, for a CentralUnit frame
with a non-zero code, and 0 otherwise. -/
def Obligations.MemberSubtractsTheOffset : Prop :=
  ∀ (p : Config) (f : FrameBytes),
    (senderType (lead p f.b0) = .centralUnit → tail p f.b3 ≠ 0#8 →
        (commandOf p f).member.toNat = ((tail p f.b3).toNat + 256 - 7) % 256)
      ∧ (senderType (lead p f.b0) = .centralUnit → tail p f.b3 = 0#8 → (commandOf p f).member = 0#8)
      ∧ (senderType (lead p f.b0) ≠ .centralUnit → (commandOf p f).member = 0#8)

/-- R328 (and R270): the code is 0 after reset; every DECODE writes exactly one of the codes 1 to 5, the
first that applies of BYTE_LOST, UNREC_TYPE, UNREC_ACTION, SUPPRESSED, EMITTED; and nothing but DECODE
and RESET changes it. -/
def Obligations.DecodeReportsTheFirstOutcomeThatApplies : Prop :=
  State.reset.decStatus = 0
    ∧ (∀ (i : Instr) (s t : State), exec i s = .next t → t.decStatus ≠ s.decStatus →
        i = .decode ∨ i = .reset)
    ∧ ∀ s : State, s.decodeEnabled = true →
      ∃ t, exec .decode s = .next t
        ∧ 1 ≤ t.decStatus.toNat ∧ t.decStatus.toNat ≤ 5
        ∧ s.frameBytes.length = 5
        ∧ (none ∈ s.frameBytes → t.decStatus = 3)
        ∧ ∀ f : FrameBytes, s.frameBytes = validBytes f →
            (¬RecognisedType (lead s.params f.b0) → t.decStatus = 4)
            ∧ (RecognisedType (lead s.params f.b0) → ¬RecognisedAction (tail s.params f.b4) →
                t.decStatus = 5)
            ∧ (RecognisedType (lead s.params f.b0) → RecognisedAction (tail s.params f.b4) →
                ¬NotSuppressed s f → t.decStatus = 2)
            ∧ (Emits s f → t.decStatus = 1)

/-- R273 to R280: a frame whose five bytes are valid and meet the emission predicate puts its Command on
the output register and its key in the DedupState; every other frame leaves both as they are. -/
def Obligations.DecodeEmitsByThePredicate : Prop :=
  ∀ s : State, s.decodeEnabled = true →
    ∃ t, exec .decode s = .next t
      ∧ (∀ f : FrameBytes, s.frameBytes = validBytes f → Emits s f →
          t.cmdValid = true
            ∧ t.cmd.typ = lead s.params f.b0
            ∧ t.cmd.id0 = f.b0 ∧ t.cmd.id1 = f.b1 ∧ t.cmd.id2 = f.b2
            ∧ t.cmd.counter = lead s.params f.b3
            ∧ t.cmd.member = memberOf (senderType (lead s.params f.b0)) (tail s.params f.b3)
            ∧ t.cmd.group = lead s.params f.b4
            ∧ t.cmd.action = tail s.params f.b4
            ∧ t.dedupValid = true ∧ t.lastCounter = lead s.params f.b3
            ∧ t.lastId0 = f.b0 ∧ t.lastId1 = f.b1 ∧ t.lastId2 = f.b2)
      ∧ ((∀ f : FrameBytes, s.frameBytes = validBytes f → ¬Emits s f) →
          SameCommand s t ∧ SameDedup s t)

/-- R278, R327: after a frame was emitted, a frame with the same bytes met while the key is still the
last is suppressed if its sender is a CentralUnit and emitted again if it is not. -/
def Obligations.RepeatsAreSuppressedForCentralUnitOnly : Prop :=
  ∀ s t u : State, exec .decode s = .next t → t.decStatus = DecStatus.emitted.code →
    u.decodeEnabled = true → u.params = s.params → u.frameBytes = s.frameBytes → SameDedup t u →
    ∃ v, exec .decode u = .next v
      ∧ (t.cmd.typ = 8#8 → v.decStatus = DecStatus.suppressed.code ∧ SameCommand u v ∧ SameDedup u v)
      ∧ (t.cmd.typ ≠ 8#8 → v.decStatus = DecStatus.emitted.code ∧ v.cmdValid = true ∧ v.cmd = t.cmd)

end CommandDecoder

section DecodeEngine

/-- R301: DECODE has a next state exactly where READY = 1 and CMD_VALID = 0. -/
def Obligations.DecodeIsEnabledExactlyWhenAFrameCanBeTaken : Prop :=
  ∀ s : State, (∃ t, exec .decode s = .next t) ↔ s.ready = true ∧ s.cmdValid = false

/-- R301: what DECODE writes and what it does not: the detail registers tell of the slice's Words and
bytes, the detector is cleared and capture re-enabled on every outcome, the ring and the cursor are
kept. -/
def Obligations.DecodeConsumesThePendingFrame : Prop :=
  ∀ s : State, s.decodeEnabled = true →
    ∃ t, exec .decode s = .next t
      ∧ t.bc.toNat = 0 ∧ t.start.val = 0 ∧ t.lbi.val = 0 ∧ t.ready = false ∧ t.captureEn = true
      ∧ SameRing s t ∧ SameOwn s t
      ∧ (∀ i : Nat, i < 10 →
          t.wordValid.getLsbD i = ((split s.triBitString).getD i none).isSome)
      ∧ (∀ k : Nat, k < 5 →
          t.byteValid.getLsbD k = ((merge (split s.triBitString)).1.getD k none).isSome)
      ∧ t.shifted = (merge (split s.triBitString)).2
      ∧ t.decStatus ≠ DecStatus.none.code
      ∧ (t.cmdValid = true ↔ t.decStatus = DecStatus.emitted.code)

/-- R303: CMD_ACCEPT clears CMD_VALID and nothing else, and enables DECODE where a frame is pending. -/
def Obligations.CmdAcceptClearsCmdValidOnly : Prop :=
  ∀ s : State, ∃ t, exec .cmdAccept s = .next t
    ∧ t.cmdValid = false ∧ t.cmd = s.cmd
    ∧ t.ring = s.ring ∧ t.wr = s.wr ∧ SameDetector s t ∧ SameDedup s t ∧ SameStatus s t
    ∧ SameOwn s t
    ∧ (s.ready = true → t.decodeEnabled = true)
    ∧ (s.cmdValid = false → t = s)
    ∧ conditionsOf .cmdAccept s = [] ∧ Sys2Proof.encode .cmdAccept = 0x600000000#36

/-- R304: IDLE changes no state and records no condition; the reserved codes behave as IDLE; and IDLE
does not stop DECODE, which is enabled after it where it was before. -/
def Obligations.IdleChangesNothing : Prop :=
  Sys2Proof.encode .idle = 0x000000000#36
    ∧ ∀ (i : Instr) (s : State), i = .idle ∨ i = .reserved110 ∨ i = .reserved111 →
    exec i s = .next s ∧ conditionsOf i s = []
      ∧ (s.decodeEnabled = true → ∃ t u, exec i s = .next t ∧ exec .decode t = .next u)

/-- R350, R351: RESET puts every element of the block into its reset state, from any state, and does
not change the parameters. -/
def Obligations.ResetFromAnyState : Prop :=
  ∀ s : State, ∃ t, exec .reset s = .next t
    ∧ (∀ i : Slot, t.ring.read i = { dur := 0#32, lvl := false })
    ∧ t.wr.val = 0 ∧ t.bc.toNat = 0 ∧ t.start.val = 0 ∧ t.lbi.val = 0 ∧ t.ready = false
    ∧ t.cmdValid = false
    ∧ t.cmd = { typ := 0, id0 := 0, id1 := 0, id2 := 0, counter := 0, member := 0, group := 0,
                action := 0 }
    ∧ t.dedupValid = false ∧ t.lastCounter = 0 ∧ t.lastId0 = 0 ∧ t.lastId1 = 0 ∧ t.lastId2 = 0
    ∧ t.decStatus = 0 ∧ t.wordValid = 0 ∧ t.byteValid = 0 ∧ t.shifted = false
    ∧ SameOwn s t
    ∧ t.stat = 0 ∧ t.cmdData = 0 ∧ t.captureEn = true
    ∧ t = { State.reset with params := s.params, trace := s.trace }

/-- R45: which transactions set and clear each flag; each is 0 after reset. READY's setting is stated for
the counts R33 allows, which are all that a run from RESET reaches (R352). -/
def Obligations.FlagsChangeOnlyAsListed : Prop :=
  (State.reset.ready = false ∧ State.reset.cmdValid = false ∧ State.reset.dedupValid = false
      ∧ State.reset.shifted = false)
    ∧ ∀ (i : Instr) (s t : State), exec i s = .next t →
    (s.bc.toNat ≤ 10 → s.ready = false → t.ready = true →
        (∃ dur, i = .edge true dur) ∧ s.bc.toNat = 10)
      ∧ (s.ready = true → t.ready = false → i = .decode ∨ i = .syncReset ∨ i = .reset)
      ∧ (s.cmdValid = false → t.cmdValid = true →
          i = .decode ∧ t.decStatus = DecStatus.emitted.code)
      ∧ (s.cmdValid = true → t.cmdValid = false → i = .cmdAccept ∨ i = .reset)
      ∧ (s.dedupValid = false → t.dedupValid = true →
          i = .decode ∧ t.decStatus = DecStatus.emitted.code)
      ∧ (s.dedupValid = true → t.dedupValid = false → i = .reset)
      ∧ (s.shifted = false → t.shifted = true →
          i = .decode ∧ alignmentShifted (split s.triBitString) = true)
      ∧ (s.shifted = true → t.shifted = false →
          (i = .decode ∧ alignmentShifted (split s.triBitString) = false) ∨ i = .reset)

/-- R302: no Command is overwritten before the Sink has taken it: while CMD_VALID = 1 the fields stay
as they are but for RESET, and at any time only DECODE and RESET write them. -/
def Obligations.PendingCommandIsNeverOverwritten : Prop :=
  ∀ (i : Instr) (s t : State), exec i s = .next t →
    (s.cmdValid = true → i ≠ .reset → t.cmd = s.cmd)
      ∧ (t.cmd ≠ s.cmd →
          (i = .decode ∧ t.decStatus = DecStatus.emitted.code ∧ s.cmdValid = false) ∨ i = .reset)

/-- R279: nothing but an emitting DECODE and RESET writes the DedupState; an emit sets it to the key of
the Command just put on the output register. -/
def Obligations.DedupStateWrittenOnlyByAnEmit : Prop :=
  ∀ (i : Instr) (s t : State), exec i s = .next t →
    (¬SameDedup s t → (i = .decode ∧ t.decStatus = DecStatus.emitted.code) ∨ i = .reset)
      ∧ (i = .decode → t.decStatus = DecStatus.emitted.code →
          t.dedupValid = true ∧ t.lastCounter = t.cmd.counter ∧ t.lastId0 = t.cmd.id0
            ∧ t.lastId1 = t.cmd.id1 ∧ t.lastId2 = t.cmd.id2)
      ∧ (i = .decode → t.decStatus ≠ DecStatus.emitted.code → SameDedup s t)

/-- R324 to R327: four conditions of a DECODE (WordCorruption, IrreconcilableByte, UnrecognizedField and
RepeatSuppressed) and the registers through which they are visible. SymbolError is left out: among a word's
trailing symbols it shows in no register (R323). What `conditionsOf` lists is the model's view of the
pseudocode's `cond` (log entry 9). -/
def Obligations.DecodeConditionsAreVisible : Prop :=
  ∀ s : State, s.decodeEnabled = true →
    ∃ t, exec .decode s = .next t
      ∧ (∀ i : Nat, Condition.wordCorruption i ∈ conditionsOf .decode s ↔
          i < 10 ∧ t.wordValid.getLsbD i = false)
      ∧ (∀ k : Nat, Condition.irreconcilableByte k ∈ conditionsOf .decode s ↔
          k < 5 ∧ t.byteValid.getLsbD k = false)
      ∧ ((∃ k, Condition.irreconcilableByte k ∈ conditionsOf .decode s) ↔ t.decStatus = 3)
      ∧ (Condition.unrecognizedField ∈ conditionsOf .decode s ↔
          t.decStatus = 4 ∨ t.decStatus = 5)
      ∧ (Condition.repeatSuppressed ∈ conditionsOf .decode s ↔ t.decStatus = 2)

/-- R305 (d): DECODE is weakly fair. From any state in which it is enabled, and whatever the environment
presents from there but SYNC_RESET and RESET, the pending frame is decoded, as Ready closed it, before
the run is over. That the trace places no DECODE before its end is the premise; that it is finite is
the model's choice (log entry 1). -/
def Obligations.EnabledDecodeIsEventuallyTaken : Prop :=
  ∀ s : State, s.decodeEnabled = true →
    (∀ w ∈ s.trace, (Sys2Proof.decode w).presentable = true
      ∧ Sys2Proof.decode w ≠ .syncReset ∧ Sys2Proof.decode w ≠ .reset) →
    ∃ t : State, Sys2Proof.core.run (s.trace.length + 1) s = .next t
      ∧ exec .decode { s with trace := [] } = .next t
      ∧ t.ready = false ∧ t.runEnded = true

end DecodeEngine

section Ports

/-- R96: the strobes of one cycle become transactions in the fixed order, RESET alone where `rst` is
asserted; nothing else reaches the trace, and what is presented may be presented. That a cycle without a
strobe presents IDLE is the model's choice (log entry 10): R96 speaks of asserted strobes only. -/
def Obligations.PortCycleOrdersItsStrobes : Prop :=
  ∀ (s : State) (c : PortCycle),
    (s.presentCycle c).trace.map Sys2Proof.decode =
      s.trace.map Sys2Proof.decode
        ++ (if c.rst = true then [.reset]
            else if c.sync_reset = false ∧ c.edge_valid = false ∧ c.cmd_accept = false then [.idle]
            else (if c.sync_reset = true then [.syncReset] else [])
              ++ (if c.edge_valid = true then [.edge c.edge_lvl c.edge_dur] else [])
              ++ (if c.cmd_accept = true then [.cmdAccept] else []))
      ∧ ∀ i ∈ c.transactions, i.presentable = true

/-- R98 (and R97): the fields of the output words are views of the registers, at the bits the tables
give; both words are 0 after reset; and in a run that began with RESET (R352's launch premise) the count
and the outcome code shown are legal ones. -/
def Obligations.OutputWordsViewTheRegisters : Prop :=
  State.reset.stat = 0 ∧ State.reset.cmdData = 0 ∧ ∀ s : State,
    (s.frameReady = s.ready ∧ s.captureEn = !s.ready ∧ s.cmdValidPort = s.cmdValid)
      ∧ (s.cmdData.extractLsb' 56 8 = s.cmd.typ ∧ s.cmdData.extractLsb' 48 8 = s.cmd.id0
        ∧ s.cmdData.extractLsb' 40 8 = s.cmd.id1 ∧ s.cmdData.extractLsb' 32 8 = s.cmd.id2
        ∧ s.cmdData.extractLsb' 24 8 = s.cmd.counter ∧ s.cmdData.extractLsb' 16 8 = s.cmd.member
        ∧ s.cmdData.extractLsb' 8 8 = s.cmd.group ∧ s.cmdData.extractLsb' 0 8 = s.cmd.action)
      ∧ (s.stat.extractLsb' 0 4 = s.bc ∧ s.stat.getLsbD 4 = s.ready
        ∧ s.stat.getLsbD 5 = s.cmdValid ∧ s.stat.getLsbD 6 = s.dedupValid
        ∧ s.stat.getLsbD 7 = s.shifted
        ∧ s.stat.extractLsb' 8 3 = s.decStatus
        ∧ s.stat.extractLsb' 11 5 = s.byteValid ∧ s.stat.extractLsb' 16 10 = s.wordValid)
      ∧ (s.Launched →
          (s.stat.extractLsb' 0 4).toNat ≤ 10 ∧ (s.stat.extractLsb' 8 3).toNat ≤ 5)

end Ports

section Invariants

/-- The state right after reset meets both invariants, for every choice of the parameters and
whatever is to be presented. -/
def Obligations.ResetMeetsTheInvariants : Prop :=
  ∀ (p : Config) (ws : List TxnWord),
    State.Inv { State.reset with params := p, trace := ws }
      ∧ State.Coherent { State.reset with params := p, trace := ws }

/-- R42 I1, I2, I3 and I5 and the ring's canonical form are kept by every step, from every state that
meets them. I4 holds by the types of the fields (log entry 5). -/
def Obligations.DetectorInvariantIsKeptByEveryStep : Prop :=
  ∀ s t : State, s.Inv → step s = .next t → t.Inv

/-- R42, an inference the spec marks as its own, under the launch premise of R352, "the run began with
RESET": whatever state RESET was taken in, I1 to I5 hold in every state of the run, for every sequence of
transactions and every choice of the parameters, and DEC_STATUS is no code above 5. I4 holds by the types
of the fields (log entry 5). -/
def Obligations.DetectorInvariantHoldsInEveryReachableState : Prop :=
  ∀ before t : State, before.LaunchedFrom t →
    (t.ready = true → t.bc.toNat = 10)
      ∧ (t.bc.toNat = 0 → t.start.val = 0 ∧ t.lbi.val = 0)
      ∧ (1 ≤ t.bc.toNat → t.lbi.val = (t.start.val + 22 * (t.bc.toNat - 1)) % 1000)
      ∧ t.wr.val ≤ 999 ∧ t.start.val ≤ 999 ∧ t.lbi.val ≤ 999
      ∧ t.bc.toNat ≤ 10
      ∧ t.decStatus.toNat ≤ 5
      ∧ t.params = before.params

/-- The model's own invariant (from R278 to R280, R301 to R303 and R328): what the command register, the
DedupState and the status registers say of each other is kept by every step: the register holds the last
emitted Command, the key is that Command's, its codes are recognised, and the detail registers agree
with the outcome code. -/
def Obligations.OutputCoherenceIsKeptByEveryStep : Prop :=
  ∀ s t : State, s.Coherent → step s = .next t → t.Coherent

end Invariants

section EndToEnd

/-- R104, R181 (inferences the spec marks as its own): a clean transmission of any five bytes, presented
from any Idle state whatever its ring holds, is captured: after its 221 EDGEs the frame is Ready, its
slice holds exactly the ten words and nine sync blocks in order, and nothing but the ring and the
detector has changed. -/
def Obligations.CleanTransmissionReachesReady : Prop :=
  ∀ (f : FrameBytes) (s : State) (ws : List TxnWord),
    s.ring.wf = true → s.ready = false → s.bc.toNat = 0 →
    s.trace = (frameOps f).map Sys2Proof.encode ++ ws →
    ∃ t : State, Sys2Proof.core.run 221 s = .next t
      ∧ t.trace = ws ∧ t.ready = true ∧ t.bc.toNat = 10
      ∧ t.start.val = (s.wr.val + 2) % 1000 ∧ t.lbi.val = (s.wr.val + 200) % 1000
      ∧ t.wr.val = (s.wr.val + 221) % 1000
      ∧ t.frameEntries = cleanFramePulses f
      ∧ SameCommand s t ∧ SameDedup s t ∧ SameStatus s t ∧ t.params = s.params

/-- From the air to the output register (R104's layout of a clean frame is an inference the spec marks as
its own): a clean transmission of any five bytes, presented from any Idle state in which no Command is
pending, is pending after its 221 EDGEs with exactly its ten Words and its five bytes, and the 222nd step
is its DECODE. If the bytes meet the emission predicate one Command with their fields is emitted; if not,
none is, and DEC_STATUS says which clause failed first. Either way the detector is Idle again and capture
enabled. -/
def Obligations.CleanTransmissionIsDecodedEndToEnd : Prop :=
  ∀ (f : FrameBytes) (s : State),
    s.ring.wf = true → s.ready = false → s.bc.toNat = 0 → s.cmdValid = false →
    s.trace = (frameOps f).map Sys2Proof.encode →
    ∃ u t : State, Sys2Proof.core.run 221 s = .next u
      ∧ u.frameWords = cleanFrameWords f ∧ u.frameBytes = validBytes f
      ∧ exec .decode u = .next t ∧ Sys2Proof.core.run 222 s = .next t
      ∧ t.runEnded = true ∧ t.captureEn = true
      ∧ t.wordValid = 0x3FF#10 ∧ t.byteValid = 0x1F#5 ∧ t.shifted = false
      ∧ t.bc.toNat = 0 ∧ t.ready = false ∧ t.wr.val = (s.wr.val + 221) % 1000
      ∧ (Emits s f →
          t.decStatus = DecStatus.emitted.code ∧ t.cmdValid = true ∧ t.cmd = commandOf s.params f)
      ∧ (¬Emits s f → SameCommand s t ∧ SameDedup s t)
      ∧ (¬RecognisedType (lead s.params f.b0) → t.decStatus = DecStatus.unrecType.code)
      ∧ (RecognisedType (lead s.params f.b0) → ¬RecognisedAction (tail s.params f.b4) →
          t.decStatus = DecStatus.unrecAction.code)
      ∧ (RecognisedType (lead s.params f.b0) → RecognisedAction (tail s.params f.b4) →
          ¬NotSuppressed s f → t.decStatus = DecStatus.suppressed.code)

end EndToEnd
end

