-- ==== Sys2Proof/Laws/State.lean ====
section
/-! SUPPORT. One lemma per field per named update of the state, each true by rfl: later proofs never
unfold a record update. -/

namespace Sys2Proof.Machine

section append
variable (s : State) (e : Entry)

@[simp] theorem State.append_ring : (s.append e).ring = s.ring.write s.wr e := rfl
@[simp] theorem State.append_wr : (s.append e).wr = next s.wr := rfl
@[simp] theorem State.append_bc : (s.append e).bc = s.bc := rfl
@[simp] theorem State.append_start : (s.append e).start = s.start := rfl
@[simp] theorem State.append_lbi : (s.append e).lbi = s.lbi := rfl
@[simp] theorem State.append_ready : (s.append e).ready = s.ready := rfl
@[simp] theorem State.append_cmdValid : (s.append e).cmdValid = s.cmdValid := rfl
@[simp] theorem State.append_cmd : (s.append e).cmd = s.cmd := rfl
@[simp] theorem State.append_dedupValid : (s.append e).dedupValid = s.dedupValid := rfl
@[simp] theorem State.append_lastCounter : (s.append e).lastCounter = s.lastCounter := rfl
@[simp] theorem State.append_lastId0 : (s.append e).lastId0 = s.lastId0 := rfl
@[simp] theorem State.append_lastId1 : (s.append e).lastId1 = s.lastId1 := rfl
@[simp] theorem State.append_lastId2 : (s.append e).lastId2 = s.lastId2 := rfl
@[simp] theorem State.append_decStatus : (s.append e).decStatus = s.decStatus := rfl
@[simp] theorem State.append_wordValid : (s.append e).wordValid = s.wordValid := rfl
@[simp] theorem State.append_byteValid : (s.append e).byteValid = s.byteValid := rfl
@[simp] theorem State.append_shifted : (s.append e).shifted = s.shifted := rfl
@[simp] theorem State.append_params : (s.append e).params = s.params := rfl
@[simp] theorem State.append_trace : (s.append e).trace = s.trace := rfl

end append

section fold
variable (s : State) (dur : Dur)

@[simp] theorem State.fold_ring : (s.fold dur).ring = s.ring.writeDur (previous s.wr) ((s.ring.read (previous s.wr)).dur + dur) := rfl
@[simp] theorem State.fold_wr : (s.fold dur).wr = s.wr := rfl
@[simp] theorem State.fold_bc : (s.fold dur).bc = s.bc := rfl
@[simp] theorem State.fold_start : (s.fold dur).start = s.start := rfl
@[simp] theorem State.fold_lbi : (s.fold dur).lbi = s.lbi := rfl
@[simp] theorem State.fold_ready : (s.fold dur).ready = s.ready := rfl
@[simp] theorem State.fold_cmdValid : (s.fold dur).cmdValid = s.cmdValid := rfl
@[simp] theorem State.fold_cmd : (s.fold dur).cmd = s.cmd := rfl
@[simp] theorem State.fold_dedupValid : (s.fold dur).dedupValid = s.dedupValid := rfl
@[simp] theorem State.fold_lastCounter : (s.fold dur).lastCounter = s.lastCounter := rfl
@[simp] theorem State.fold_lastId0 : (s.fold dur).lastId0 = s.lastId0 := rfl
@[simp] theorem State.fold_lastId1 : (s.fold dur).lastId1 = s.lastId1 := rfl
@[simp] theorem State.fold_lastId2 : (s.fold dur).lastId2 = s.lastId2 := rfl
@[simp] theorem State.fold_decStatus : (s.fold dur).decStatus = s.decStatus := rfl
@[simp] theorem State.fold_wordValid : (s.fold dur).wordValid = s.wordValid := rfl
@[simp] theorem State.fold_byteValid : (s.fold dur).byteValid = s.byteValid := rfl
@[simp] theorem State.fold_shifted : (s.fold dur).shifted = s.shifted := rfl
@[simp] theorem State.fold_params : (s.fold dur).params = s.params := rfl
@[simp] theorem State.fold_trace : (s.fold dur).trace = s.trace := rfl

end fold

section clearSync
variable (s : State)

@[simp] theorem State.clearSync_ring : (s.clearSync).ring = s.ring := rfl
@[simp] theorem State.clearSync_wr : (s.clearSync).wr = s.wr := rfl
@[simp] theorem State.clearSync_bc : (s.clearSync).bc = 0 := rfl
@[simp] theorem State.clearSync_start : (s.clearSync).start = 0 := rfl
@[simp] theorem State.clearSync_lbi : (s.clearSync).lbi = 0 := rfl
@[simp] theorem State.clearSync_ready : (s.clearSync).ready = s.ready := rfl
@[simp] theorem State.clearSync_cmdValid : (s.clearSync).cmdValid = s.cmdValid := rfl
@[simp] theorem State.clearSync_cmd : (s.clearSync).cmd = s.cmd := rfl
@[simp] theorem State.clearSync_dedupValid : (s.clearSync).dedupValid = s.dedupValid := rfl
@[simp] theorem State.clearSync_lastCounter : (s.clearSync).lastCounter = s.lastCounter := rfl
@[simp] theorem State.clearSync_lastId0 : (s.clearSync).lastId0 = s.lastId0 := rfl
@[simp] theorem State.clearSync_lastId1 : (s.clearSync).lastId1 = s.lastId1 := rfl
@[simp] theorem State.clearSync_lastId2 : (s.clearSync).lastId2 = s.lastId2 := rfl
@[simp] theorem State.clearSync_decStatus : (s.clearSync).decStatus = s.decStatus := rfl
@[simp] theorem State.clearSync_wordValid : (s.clearSync).wordValid = s.wordValid := rfl
@[simp] theorem State.clearSync_byteValid : (s.clearSync).byteValid = s.byteValid := rfl
@[simp] theorem State.clearSync_shifted : (s.clearSync).shifted = s.shifted := rfl
@[simp] theorem State.clearSync_params : (s.clearSync).params = s.params := rfl
@[simp] theorem State.clearSync_trace : (s.clearSync).trace = s.trace := rfl

end clearSync

section firstBlock
variable (s : State) (c : Slot)

@[simp] theorem State.firstBlock_ring : (s.firstBlock c).ring = s.ring := rfl
@[simp] theorem State.firstBlock_wr : (s.firstBlock c).wr = s.wr := rfl
@[simp] theorem State.firstBlock_bc : (s.firstBlock c).bc = 1 := rfl
@[simp] theorem State.firstBlock_start : (s.firstBlock c).start = next c := rfl
@[simp] theorem State.firstBlock_lbi : (s.firstBlock c).lbi = next c := rfl
@[simp] theorem State.firstBlock_ready : (s.firstBlock c).ready = s.ready := rfl
@[simp] theorem State.firstBlock_cmdValid : (s.firstBlock c).cmdValid = s.cmdValid := rfl
@[simp] theorem State.firstBlock_cmd : (s.firstBlock c).cmd = s.cmd := rfl
@[simp] theorem State.firstBlock_dedupValid : (s.firstBlock c).dedupValid = s.dedupValid := rfl
@[simp] theorem State.firstBlock_lastCounter : (s.firstBlock c).lastCounter = s.lastCounter := rfl
@[simp] theorem State.firstBlock_lastId0 : (s.firstBlock c).lastId0 = s.lastId0 := rfl
@[simp] theorem State.firstBlock_lastId1 : (s.firstBlock c).lastId1 = s.lastId1 := rfl
@[simp] theorem State.firstBlock_lastId2 : (s.firstBlock c).lastId2 = s.lastId2 := rfl
@[simp] theorem State.firstBlock_decStatus : (s.firstBlock c).decStatus = s.decStatus := rfl
@[simp] theorem State.firstBlock_wordValid : (s.firstBlock c).wordValid = s.wordValid := rfl
@[simp] theorem State.firstBlock_byteValid : (s.firstBlock c).byteValid = s.byteValid := rfl
@[simp] theorem State.firstBlock_shifted : (s.firstBlock c).shifted = s.shifted := rfl
@[simp] theorem State.firstBlock_params : (s.firstBlock c).params = s.params := rfl
@[simp] theorem State.firstBlock_trace : (s.firstBlock c).trace = s.trace := rfl

end firstBlock

section acceptBlock
variable (s : State) (c : Slot)

@[simp] theorem State.acceptBlock_ring : (s.acceptBlock c).ring = s.ring := rfl
@[simp] theorem State.acceptBlock_wr : (s.acceptBlock c).wr = s.wr := rfl
@[simp] theorem State.acceptBlock_bc : (s.acceptBlock c).bc = s.bc + 1 := rfl
@[simp] theorem State.acceptBlock_start : (s.acceptBlock c).start = s.start := rfl
@[simp] theorem State.acceptBlock_lbi : (s.acceptBlock c).lbi = next c := rfl
@[simp] theorem State.acceptBlock_ready : (s.acceptBlock c).ready = s.ready := rfl
@[simp] theorem State.acceptBlock_cmdValid : (s.acceptBlock c).cmdValid = s.cmdValid := rfl
@[simp] theorem State.acceptBlock_cmd : (s.acceptBlock c).cmd = s.cmd := rfl
@[simp] theorem State.acceptBlock_dedupValid : (s.acceptBlock c).dedupValid = s.dedupValid := rfl
@[simp] theorem State.acceptBlock_lastCounter : (s.acceptBlock c).lastCounter = s.lastCounter := rfl
@[simp] theorem State.acceptBlock_lastId0 : (s.acceptBlock c).lastId0 = s.lastId0 := rfl
@[simp] theorem State.acceptBlock_lastId1 : (s.acceptBlock c).lastId1 = s.lastId1 := rfl
@[simp] theorem State.acceptBlock_lastId2 : (s.acceptBlock c).lastId2 = s.lastId2 := rfl
@[simp] theorem State.acceptBlock_decStatus : (s.acceptBlock c).decStatus = s.decStatus := rfl
@[simp] theorem State.acceptBlock_wordValid : (s.acceptBlock c).wordValid = s.wordValid := rfl
@[simp] theorem State.acceptBlock_byteValid : (s.acceptBlock c).byteValid = s.byteValid := rfl
@[simp] theorem State.acceptBlock_shifted : (s.acceptBlock c).shifted = s.shifted := rfl
@[simp] theorem State.acceptBlock_params : (s.acceptBlock c).params = s.params := rfl
@[simp] theorem State.acceptBlock_trace : (s.acceptBlock c).trace = s.trace := rfl

end acceptBlock

section withDetector
variable (s : State) (d : Detector)

@[simp] theorem State.withDetector_ring : (s.withDetector d).ring = s.ring := rfl
@[simp] theorem State.withDetector_wr : (s.withDetector d).wr = s.wr := rfl
@[simp] theorem State.withDetector_bc : (s.withDetector d).bc = d.bc := rfl
@[simp] theorem State.withDetector_start : (s.withDetector d).start = d.start := rfl
@[simp] theorem State.withDetector_lbi : (s.withDetector d).lbi = d.lbi := rfl
@[simp] theorem State.withDetector_ready : (s.withDetector d).ready = d.ready := rfl
@[simp] theorem State.withDetector_cmdValid : (s.withDetector d).cmdValid = s.cmdValid := rfl
@[simp] theorem State.withDetector_cmd : (s.withDetector d).cmd = s.cmd := rfl
@[simp] theorem State.withDetector_dedupValid : (s.withDetector d).dedupValid = s.dedupValid := rfl
@[simp] theorem State.withDetector_lastCounter : (s.withDetector d).lastCounter = s.lastCounter := rfl
@[simp] theorem State.withDetector_lastId0 : (s.withDetector d).lastId0 = s.lastId0 := rfl
@[simp] theorem State.withDetector_lastId1 : (s.withDetector d).lastId1 = s.lastId1 := rfl
@[simp] theorem State.withDetector_lastId2 : (s.withDetector d).lastId2 = s.lastId2 := rfl
@[simp] theorem State.withDetector_decStatus : (s.withDetector d).decStatus = s.decStatus := rfl
@[simp] theorem State.withDetector_wordValid : (s.withDetector d).wordValid = s.wordValid := rfl
@[simp] theorem State.withDetector_byteValid : (s.withDetector d).byteValid = s.byteValid := rfl
@[simp] theorem State.withDetector_shifted : (s.withDetector d).shifted = s.shifted := rfl
@[simp] theorem State.withDetector_params : (s.withDetector d).params = s.params := rfl
@[simp] theorem State.withDetector_trace : (s.withDetector d).trace = s.trace := rfl

end withDetector

section declareReady
variable (s : State)

@[simp] theorem State.declareReady_ring : (s.declareReady).ring = s.ring := rfl
@[simp] theorem State.declareReady_wr : (s.declareReady).wr = s.wr := rfl
@[simp] theorem State.declareReady_bc : (s.declareReady).bc = s.bc := rfl
@[simp] theorem State.declareReady_start : (s.declareReady).start = s.start := rfl
@[simp] theorem State.declareReady_lbi : (s.declareReady).lbi = s.lbi := rfl
@[simp] theorem State.declareReady_ready : (s.declareReady).ready = true := rfl
@[simp] theorem State.declareReady_cmdValid : (s.declareReady).cmdValid = s.cmdValid := rfl
@[simp] theorem State.declareReady_cmd : (s.declareReady).cmd = s.cmd := rfl
@[simp] theorem State.declareReady_dedupValid : (s.declareReady).dedupValid = s.dedupValid := rfl
@[simp] theorem State.declareReady_lastCounter : (s.declareReady).lastCounter = s.lastCounter := rfl
@[simp] theorem State.declareReady_lastId0 : (s.declareReady).lastId0 = s.lastId0 := rfl
@[simp] theorem State.declareReady_lastId1 : (s.declareReady).lastId1 = s.lastId1 := rfl
@[simp] theorem State.declareReady_lastId2 : (s.declareReady).lastId2 = s.lastId2 := rfl
@[simp] theorem State.declareReady_decStatus : (s.declareReady).decStatus = s.decStatus := rfl
@[simp] theorem State.declareReady_wordValid : (s.declareReady).wordValid = s.wordValid := rfl
@[simp] theorem State.declareReady_byteValid : (s.declareReady).byteValid = s.byteValid := rfl
@[simp] theorem State.declareReady_shifted : (s.declareReady).shifted = s.shifted := rfl
@[simp] theorem State.declareReady_params : (s.declareReady).params = s.params := rfl
@[simp] theorem State.declareReady_trace : (s.declareReady).trace = s.trace := rfl

end declareReady

section clearReady
variable (s : State)

@[simp] theorem State.clearReady_ring : (s.clearReady).ring = s.ring := rfl
@[simp] theorem State.clearReady_wr : (s.clearReady).wr = s.wr := rfl
@[simp] theorem State.clearReady_bc : (s.clearReady).bc = s.bc := rfl
@[simp] theorem State.clearReady_start : (s.clearReady).start = s.start := rfl
@[simp] theorem State.clearReady_lbi : (s.clearReady).lbi = s.lbi := rfl
@[simp] theorem State.clearReady_ready : (s.clearReady).ready = false := rfl
@[simp] theorem State.clearReady_cmdValid : (s.clearReady).cmdValid = s.cmdValid := rfl
@[simp] theorem State.clearReady_cmd : (s.clearReady).cmd = s.cmd := rfl
@[simp] theorem State.clearReady_dedupValid : (s.clearReady).dedupValid = s.dedupValid := rfl
@[simp] theorem State.clearReady_lastCounter : (s.clearReady).lastCounter = s.lastCounter := rfl
@[simp] theorem State.clearReady_lastId0 : (s.clearReady).lastId0 = s.lastId0 := rfl
@[simp] theorem State.clearReady_lastId1 : (s.clearReady).lastId1 = s.lastId1 := rfl
@[simp] theorem State.clearReady_lastId2 : (s.clearReady).lastId2 = s.lastId2 := rfl
@[simp] theorem State.clearReady_decStatus : (s.clearReady).decStatus = s.decStatus := rfl
@[simp] theorem State.clearReady_wordValid : (s.clearReady).wordValid = s.wordValid := rfl
@[simp] theorem State.clearReady_byteValid : (s.clearReady).byteValid = s.byteValid := rfl
@[simp] theorem State.clearReady_shifted : (s.clearReady).shifted = s.shifted := rfl
@[simp] theorem State.clearReady_params : (s.clearReady).params = s.params := rfl
@[simp] theorem State.clearReady_trace : (s.clearReady).trace = s.trace := rfl

end clearReady

section emit
variable (s : State) (c : Command)

@[simp] theorem State.emit_ring : (s.emit c).ring = s.ring := rfl
@[simp] theorem State.emit_wr : (s.emit c).wr = s.wr := rfl
@[simp] theorem State.emit_bc : (s.emit c).bc = s.bc := rfl
@[simp] theorem State.emit_start : (s.emit c).start = s.start := rfl
@[simp] theorem State.emit_lbi : (s.emit c).lbi = s.lbi := rfl
@[simp] theorem State.emit_ready : (s.emit c).ready = s.ready := rfl
@[simp] theorem State.emit_cmdValid : (s.emit c).cmdValid = true := rfl
@[simp] theorem State.emit_cmd : (s.emit c).cmd = c := rfl
@[simp] theorem State.emit_dedupValid : (s.emit c).dedupValid = true := rfl
@[simp] theorem State.emit_lastCounter : (s.emit c).lastCounter = c.counter := rfl
@[simp] theorem State.emit_lastId0 : (s.emit c).lastId0 = c.id0 := rfl
@[simp] theorem State.emit_lastId1 : (s.emit c).lastId1 = c.id1 := rfl
@[simp] theorem State.emit_lastId2 : (s.emit c).lastId2 = c.id2 := rfl
@[simp] theorem State.emit_decStatus : (s.emit c).decStatus = s.decStatus := rfl
@[simp] theorem State.emit_wordValid : (s.emit c).wordValid = s.wordValid := rfl
@[simp] theorem State.emit_byteValid : (s.emit c).byteValid = s.byteValid := rfl
@[simp] theorem State.emit_shifted : (s.emit c).shifted = s.shifted := rfl
@[simp] theorem State.emit_params : (s.emit c).params = s.params := rfl
@[simp] theorem State.emit_trace : (s.emit c).trace = s.trace := rfl

end emit

section recordDetail
variable (s : State) (W Bk : List (Option Byte)) (sh : Bool)

@[simp] theorem State.recordDetail_ring : (s.recordDetail W Bk sh).ring = s.ring := rfl
@[simp] theorem State.recordDetail_wr : (s.recordDetail W Bk sh).wr = s.wr := rfl
@[simp] theorem State.recordDetail_bc : (s.recordDetail W Bk sh).bc = s.bc := rfl
@[simp] theorem State.recordDetail_start : (s.recordDetail W Bk sh).start = s.start := rfl
@[simp] theorem State.recordDetail_lbi : (s.recordDetail W Bk sh).lbi = s.lbi := rfl
@[simp] theorem State.recordDetail_ready : (s.recordDetail W Bk sh).ready = s.ready := rfl
@[simp] theorem State.recordDetail_cmdValid : (s.recordDetail W Bk sh).cmdValid = s.cmdValid := rfl
@[simp] theorem State.recordDetail_cmd : (s.recordDetail W Bk sh).cmd = s.cmd := rfl
@[simp] theorem State.recordDetail_dedupValid : (s.recordDetail W Bk sh).dedupValid = s.dedupValid := rfl
@[simp] theorem State.recordDetail_lastCounter : (s.recordDetail W Bk sh).lastCounter = s.lastCounter := rfl
@[simp] theorem State.recordDetail_lastId0 : (s.recordDetail W Bk sh).lastId0 = s.lastId0 := rfl
@[simp] theorem State.recordDetail_lastId1 : (s.recordDetail W Bk sh).lastId1 = s.lastId1 := rfl
@[simp] theorem State.recordDetail_lastId2 : (s.recordDetail W Bk sh).lastId2 = s.lastId2 := rfl
@[simp] theorem State.recordDetail_decStatus : (s.recordDetail W Bk sh).decStatus = s.decStatus := rfl
@[simp] theorem State.recordDetail_wordValid : (s.recordDetail W Bk sh).wordValid = validBits 10 W := rfl
@[simp] theorem State.recordDetail_byteValid : (s.recordDetail W Bk sh).byteValid = validBits 5 Bk := rfl
@[simp] theorem State.recordDetail_shifted : (s.recordDetail W Bk sh).shifted = sh := rfl
@[simp] theorem State.recordDetail_params : (s.recordDetail W Bk sh).params = s.params := rfl
@[simp] theorem State.recordDetail_trace : (s.recordDetail W Bk sh).trace = s.trace := rfl

end recordDetail

section presentNext
variable (s : State) (w : TxnWord)

@[simp] theorem State.presentNext_ring : (s.presentNext w).ring = s.ring := rfl
@[simp] theorem State.presentNext_wr : (s.presentNext w).wr = s.wr := rfl
@[simp] theorem State.presentNext_bc : (s.presentNext w).bc = s.bc := rfl
@[simp] theorem State.presentNext_start : (s.presentNext w).start = s.start := rfl
@[simp] theorem State.presentNext_lbi : (s.presentNext w).lbi = s.lbi := rfl
@[simp] theorem State.presentNext_ready : (s.presentNext w).ready = s.ready := rfl
@[simp] theorem State.presentNext_cmdValid : (s.presentNext w).cmdValid = s.cmdValid := rfl
@[simp] theorem State.presentNext_cmd : (s.presentNext w).cmd = s.cmd := rfl
@[simp] theorem State.presentNext_dedupValid : (s.presentNext w).dedupValid = s.dedupValid := rfl
@[simp] theorem State.presentNext_lastCounter : (s.presentNext w).lastCounter = s.lastCounter := rfl
@[simp] theorem State.presentNext_lastId0 : (s.presentNext w).lastId0 = s.lastId0 := rfl
@[simp] theorem State.presentNext_lastId1 : (s.presentNext w).lastId1 = s.lastId1 := rfl
@[simp] theorem State.presentNext_lastId2 : (s.presentNext w).lastId2 = s.lastId2 := rfl
@[simp] theorem State.presentNext_decStatus : (s.presentNext w).decStatus = s.decStatus := rfl
@[simp] theorem State.presentNext_wordValid : (s.presentNext w).wordValid = s.wordValid := rfl
@[simp] theorem State.presentNext_byteValid : (s.presentNext w).byteValid = s.byteValid := rfl
@[simp] theorem State.presentNext_shifted : (s.presentNext w).shifted = s.shifted := rfl
@[simp] theorem State.presentNext_params : (s.presentNext w).params = s.params := rfl
@[simp] theorem State.presentNext_trace : (s.presentNext w).trace = w :: s.trace := rfl

end presentNext

end Sys2Proof.Machine
end

