-- ==== Sys2Proof/Laws/Decode.lean ====
section
/-! SUPPORT. What the command stage and DECODE can do, said once. -/

namespace Sys2Proof.Machine

/-- Everything CommandStage can decide (45_command.md R280). -/
theorem commandOutcome_cases (s : State) (l : List (Option Byte)) :
    (allValid l = none ∧ commandOutcome s l = (.byteLost, none))
    ∨ ∃ f, allValid l = some f
      ∧ ((senderType (lead s.params f.b0) = .unrecognized ∧ commandOutcome s l = (.unrecType, none))
        ∨ (senderType (lead s.params f.b0) ≠ .unrecognized
            ∧ ((actionOf (tail s.params f.b4) = .unrecognized
                ∧ commandOutcome s l = (.unrecAction, none))
              ∨ (actionOf (tail s.params f.b4) ≠ .unrecognized
                  ∧ ((s.suppresses (commandOf s.params f) = true
                      ∧ commandOutcome s l = (.suppressed, none))
                    ∨ (s.suppresses (commandOf s.params f) = false
                        ∧ commandOutcome s l = (.emitted, some (commandOf s.params f)))))))) := by
  unfold commandOutcome
  cases h : allValid l with
  | none => exact .inl ⟨rfl, rfl⟩
  | some f =>
    refine .inr ⟨f, rfl, ?_⟩
    by_cases ht : senderType (lead s.params f.b0) = .unrecognized
    · exact .inl ⟨ht, by simp [commandOf, ht]⟩
    · refine .inr ⟨ht, ?_⟩
      by_cases ha : actionOf (tail s.params f.b4) = .unrecognized
      · exact .inl ⟨ha, by simp [commandOf, ht, ha]⟩
      · refine .inr ⟨ha, ?_⟩
        by_cases hs : s.suppresses (commandOf s.params f) = true
        · exact .inl ⟨hs, by simp only [hs]; simp [commandOf, ht, ha]⟩
        · exact .inr ⟨by simpa using hs, by simp only [hs]; simp [commandOf, ht, ha]⟩

/-- The codes of the outcomes differ. -/
@[simp] theorem DecStatus.code_inj {d e : DecStatus} : d.code = e.code ↔ d = e := by
  cases d <;> cases e <;> decide

/-- Codes 6 and 7 are no outcome's. -/
theorem DecStatus.code_le (d : DecStatus) : d.code.toNat ≤ 5 := by cases d <;> decide

/-- The stage writes the outcome and, where a Command is emitted, the command register and the
DedupState; nothing else. -/
theorem commandStage_none {l : List (Option Byte)} {s : State} {d : DecStatus}
    (h : commandOutcome s l = (d, none)) : commandStage l s = { s with decStatus := d.code } := by
  simp [commandStage, h]

theorem commandStage_some {l : List (Option Byte)} {s : State} {d : DecStatus} {c : Command}
    (h : commandOutcome s l = (d, some c)) :
    commandStage l s = { s.emit c with decStatus := d.code } := by
  simp [commandStage, h]

@[simp] theorem commandStage_decStatus (l : List (Option Byte)) (s : State) :
    (commandStage l s).decStatus = (commandOutcome s l).1.code := by
  unfold commandStage
  split <;> rename_i h <;> simp [h]

@[simp] theorem commandStage_ring (l : List (Option Byte)) (s : State) :
    (commandStage l s).ring = s.ring := by
  unfold commandStage
  split <;> simp

@[simp] theorem commandStage_wr (l : List (Option Byte)) (s : State) :
    (commandStage l s).wr = s.wr := by
  unfold commandStage
  split <;> simp

@[simp] theorem commandStage_bc (l : List (Option Byte)) (s : State) :
    (commandStage l s).bc = s.bc := by
  unfold commandStage
  split <;> simp

@[simp] theorem commandStage_start (l : List (Option Byte)) (s : State) :
    (commandStage l s).start = s.start := by
  unfold commandStage
  split <;> simp

@[simp] theorem commandStage_lbi (l : List (Option Byte)) (s : State) :
    (commandStage l s).lbi = s.lbi := by
  unfold commandStage
  split <;> simp

@[simp] theorem commandStage_ready (l : List (Option Byte)) (s : State) :
    (commandStage l s).ready = s.ready := by
  unfold commandStage
  split <;> simp

@[simp] theorem commandStage_wordValid (l : List (Option Byte)) (s : State) :
    (commandStage l s).wordValid = s.wordValid := by
  unfold commandStage
  split <;> simp

@[simp] theorem commandStage_byteValid (l : List (Option Byte)) (s : State) :
    (commandStage l s).byteValid = s.byteValid := by
  unfold commandStage
  split <;> simp

@[simp] theorem commandStage_shifted (l : List (Option Byte)) (s : State) :
    (commandStage l s).shifted = s.shifted := by
  unfold commandStage
  split <;> simp

@[simp] theorem commandStage_params (l : List (Option Byte)) (s : State) :
    (commandStage l s).params = s.params := by
  unfold commandStage
  split <;> simp

@[simp] theorem commandStage_trace (l : List (Option Byte)) (s : State) :
    (commandStage l s).trace = s.trace := by
  unfold commandStage
  split <;> simp

/-- The detail registers are no input of the stage. -/
@[simp] theorem commandOutcome_recordDetail (s : State) (W Bk l : List (Option Byte)) (sh : Bool) :
    commandOutcome (s.recordDetail W Bk sh) l = commandOutcome s l := rfl

@[simp] theorem decodeFrame_ring (s : State) : (decodeFrame s).ring = s.ring := by
  simp [decodeFrame]

@[simp] theorem decodeFrame_wr (s : State) : (decodeFrame s).wr = s.wr := by
  simp [decodeFrame]

@[simp] theorem decodeFrame_params (s : State) : (decodeFrame s).params = s.params := by
  simp [decodeFrame]

@[simp] theorem decodeFrame_trace (s : State) : (decodeFrame s).trace = s.trace := by
  simp [decodeFrame]

@[simp] theorem decodeFrame_bc (s : State) : (decodeFrame s).bc = 0 := by
  simp [decodeFrame]

@[simp] theorem decodeFrame_start (s : State) : (decodeFrame s).start = 0 := by
  simp [decodeFrame]

@[simp] theorem decodeFrame_lbi (s : State) : (decodeFrame s).lbi = 0 := by
  simp [decodeFrame]

@[simp] theorem decodeFrame_ready (s : State) : (decodeFrame s).ready = false := by
  simp [decodeFrame]

@[simp] theorem decodeFrame_wordValid (s : State) : (decodeFrame s).wordValid = validBits 10 s.frameWords := by
  simp [decodeFrame]

@[simp] theorem decodeFrame_byteValid (s : State) : (decodeFrame s).byteValid = validBits 5 s.frameBytes := by
  simp [decodeFrame]

@[simp] theorem decodeFrame_shifted (s : State) : (decodeFrame s).shifted = (merge s.frameWords).2 := by
  simp [decodeFrame]

@[simp] theorem decodeFrame_decStatus (s : State) : (decodeFrame s).decStatus = (commandOutcome s s.frameBytes).1.code := by
  simp [decodeFrame]

/-- What DECODE leaves in `cmdValid`. -/
theorem decodeFrame_cmdValid (s : State) :
    (decodeFrame s).cmdValid =
      match (commandOutcome s s.frameBytes).2 with
      | none => s.cmdValid
      | some _ => true := by
  simp only [decodeFrame, State.clearReady_cmdValid, State.clearSync_cmdValid, commandStage,
    commandOutcome_recordDetail]
  rcases commandOutcome s s.frameBytes with ⟨d, _ | c⟩ <;> rfl

/-- What DECODE leaves in `cmd`. -/
theorem decodeFrame_cmd (s : State) :
    (decodeFrame s).cmd =
      match (commandOutcome s s.frameBytes).2 with
      | none => s.cmd
      | some c => c := by
  simp only [decodeFrame, State.clearReady_cmd, State.clearSync_cmd, commandStage,
    commandOutcome_recordDetail]
  rcases commandOutcome s s.frameBytes with ⟨d, _ | c⟩ <;> rfl

/-- What DECODE leaves in `dedupValid`. -/
theorem decodeFrame_dedupValid (s : State) :
    (decodeFrame s).dedupValid =
      match (commandOutcome s s.frameBytes).2 with
      | none => s.dedupValid
      | some _ => true := by
  simp only [decodeFrame, State.clearReady_dedupValid, State.clearSync_dedupValid, commandStage,
    commandOutcome_recordDetail]
  rcases commandOutcome s s.frameBytes with ⟨d, _ | c⟩ <;> rfl

/-- What DECODE leaves in `lastCounter`. -/
theorem decodeFrame_lastCounter (s : State) :
    (decodeFrame s).lastCounter =
      match (commandOutcome s s.frameBytes).2 with
      | none => s.lastCounter
      | some c => c.counter := by
  simp only [decodeFrame, State.clearReady_lastCounter, State.clearSync_lastCounter, commandStage,
    commandOutcome_recordDetail]
  rcases commandOutcome s s.frameBytes with ⟨d, _ | c⟩ <;> rfl

/-- What DECODE leaves in `lastId0`. -/
theorem decodeFrame_lastId0 (s : State) :
    (decodeFrame s).lastId0 =
      match (commandOutcome s s.frameBytes).2 with
      | none => s.lastId0
      | some c => c.id0 := by
  simp only [decodeFrame, State.clearReady_lastId0, State.clearSync_lastId0, commandStage,
    commandOutcome_recordDetail]
  rcases commandOutcome s s.frameBytes with ⟨d, _ | c⟩ <;> rfl

/-- What DECODE leaves in `lastId1`. -/
theorem decodeFrame_lastId1 (s : State) :
    (decodeFrame s).lastId1 =
      match (commandOutcome s s.frameBytes).2 with
      | none => s.lastId1
      | some c => c.id1 := by
  simp only [decodeFrame, State.clearReady_lastId1, State.clearSync_lastId1, commandStage,
    commandOutcome_recordDetail]
  rcases commandOutcome s s.frameBytes with ⟨d, _ | c⟩ <;> rfl

/-- What DECODE leaves in `lastId2`. -/
theorem decodeFrame_lastId2 (s : State) :
    (decodeFrame s).lastId2 =
      match (commandOutcome s s.frameBytes).2 with
      | none => s.lastId2
      | some c => c.id2 := by
  simp only [decodeFrame, State.clearReady_lastId2, State.clearSync_lastId2, commandStage,
    commandOutcome_recordDetail]
  rcases commandOutcome s s.frameBytes with ⟨d, _ | c⟩ <;> rfl

/-- `SHIFTED` is the alignment heuristic. -/
theorem merge_snd (W : List (Option Byte)) : (merge W).2 = alignmentShifted W := by
  unfold merge
  split
  · rename_i h
    exact h.symm
  · rename_i h
    exact (Bool.not_eq_true _ ▸ h : alignmentShifted W = false).symm

/-- `Merge` yields five bytes in either case (44_redundancy.md R254). -/
theorem merge_five (W : List (Option Byte)) : ∃ a b c d e, (merge W).1 = [a, b, c, d, e] := by
  unfold merge
  split
  · exact ⟨_, _, _, _, _, rfl⟩
  · exact ⟨_, _, _, _, _, rfl⟩

theorem execDecode_of_enabled {s : State} (h : s.decodeEnabled = true) :
    execDecode s = .next (decodeFrame s) := by simp [execDecode, h]

theorem execDecode_of_not_enabled {s : State} (h : s.decodeEnabled = false) :
    execDecode s = .refused .decodeNotEnabled := by simp [execDecode, h]

theorem decodeEnabled_iff {s : State} :
    s.decodeEnabled = true ↔ s.ready = true ∧ s.cmdValid = false := by
  simp [State.decodeEnabled]

end Sys2Proof.Machine
end

