-- ==== Sys2Proof/Laws/Command.lean ====
section
/-! SUPPORT. The code maps, the emission predicate and the detail registers, as numbers. -/

namespace Sys2Proof.Machine

theorem senderType_unrecognized_iff (x : Byte) :
    senderType x = .unrecognized ↔ ¬RecognisedType x := by
  unfold senderType RecognisedType
  repeat' split
  all_goals simp_all

theorem senderType_centralUnit_iff (x : Byte) : senderType x = .centralUnit ↔ x = 8#8 := by
  unfold senderType
  repeat' split
  all_goals simp_all

theorem actionOf_unrecognized_iff (x : Byte) :
    actionOf x = .unrecognized ↔ ¬RecognisedAction x := by
  unfold actionOf RecognisedAction
  repeat' split
  all_goals simp_all

/-- Suppression is the failure of the last clause of R278. -/
theorem suppresses_iff (s : State) (f : FrameBytes) :
    s.suppresses (commandOf s.params f) = true ↔ ¬NotSuppressed s f := by
  simp only [State.suppresses, State.repeatsKey, commandOf, Bool.and_eq_true, beq_iff_eq,
    NotSuppressed, not_or, Bool.not_eq_false, ne_eq, not_not, senderType_centralUnit_iff]
  tauto

@[simp] theorem allValid_validBytes (f : FrameBytes) : allValid (validBytes f) = some f := rfl

/-- Five valid bytes are these five. -/
theorem eq_validBytes_of_allValid {l : List (Option Byte)} {f : FrameBytes}
    (h : allValid l = some f) : l = validBytes f := by
  unfold allValid at h
  split at h
  · cases h
    rfl
  · cases h

/-- Of five bytes, one is lost or all are valid. -/
theorem allValid_none_iff (a b c d e : Option Byte) :
    allValid [a, b, c, d, e] = none ↔ none ∈ [a, b, c, d, e] := by
  cases a <;> cases b <;> cases c <;> cases d <;> cases e <;> simp [allValid]

/-- The outcome is EMITTED exactly when there is a Command. -/
theorem commandOutcome_emitted_iff (s : State) (l : List (Option Byte)) :
    (commandOutcome s l).1 = .emitted ↔ (commandOutcome s l).2 ≠ none := by
  obtain ⟨-, h⟩ | ⟨f, -, ⟨-, h⟩ | ⟨-, ⟨-, h⟩ | ⟨-, ⟨-, h⟩ | ⟨-, h⟩⟩⟩⟩ := commandOutcome_cases s l <;>
    rw [h] <;> simp

theorem bitsToNat_testBit (l : List Bool) (i : Nat) :
    (bitsToNat l).testBit i = l.getD i false := by
  induction l generalizing i with
  | nil => simp [bitsToNat]
  | cons b l ih =>
    cases i with
    | zero => cases b <;> simp [bitsToNat, Nat.testBit_zero]
    | succ i =>
      have h : bitsToNat (b :: l) / 2 = bitsToNat l := by
        cases b <;> simp only [bitsToNat, Bool.toNat_false, Bool.toNat_true] <;> omega
      rw [Nat.testBit_succ, h, ih]
      rfl

/-- Bit `i` of the valid bits is the valid bit of element `i` (60_exceptions.md R329). -/
theorem validBits_getLsbD (n : Nat) (l : List (Option Byte)) (i : Nat) (h : i < n) :
    (validBits n l).getLsbD i = (l.getD i none).isSome := by
  rw [validBits, BitVec.getLsbD_ofNat, bitsToNat_testBit]
  simp only [h, decide_true, Bool.true_and, List.getD_eq_getElem?_getD, List.getElem?_map]
  cases l[i]? <;> simp

end Sys2Proof.Machine
end

