-- ==== Sys2Proof/Laws/Memory.lean ====
section
/-! SUPPORT. The ring: its canonical form is kept by every access, and a read after a write. -/

namespace Sys2Proof.Machine

namespace Memory

/-- An entry is well placed from `lo` on, and what follows it from the next slot on. -/
theorem wfFrom_cons {lo a : Nat} {e : Entry} {m : List (Nat × Entry)} :
    wfFrom lo ((a, e) :: m) = true ↔ lo ≤ a ∧ a < 1000 ∧ e ≠ Entry.zero ∧ wfFrom (a + 1) m = true := by
  simp only [wfFrom, Bool.and_eq_true, decide_eq_true_eq, and_assoc]
  exact Iff.rfl

theorem wfFrom_mono {lo lo' : Nat} {m : List (Nat × Entry)} (h : wfFrom lo m = true) (hle : lo' ≤ lo) :
    wfFrom lo' m = true := by
  cases m with
  | nil => rfl
  | cons p m =>
    obtain ⟨a, e⟩ := p
    rw [wfFrom_cons] at h ⊢
    exact ⟨by omega, h.2⟩

/-- A slot below all the listed ones holds the reset entry. -/
theorem readAt_below {lo a : Nat} {m : List (Nat × Entry)} (h : wfFrom lo m = true) (ha : a < lo) :
    readAt m a = Entry.zero := by
  induction m generalizing lo with
  | nil => rfl
  | cons p m ih =>
    obtain ⟨b, e⟩ := p
    rw [wfFrom_cons] at h
    have hne : b ≠ a := by omega
    simp only [readAt, hne, if_false]
    exact ih h.2.2.2 (by omega)

theorem wfFrom_consEntry {lo a : Nat} {e : Entry} {m : List (Nat × Entry)} (hlo : lo ≤ a)
    (ha : a < 1000) (h : wfFrom (a + 1) m = true) : wfFrom lo (consEntry a e m) = true := by
  unfold consEntry
  split
  · exact wfFrom_mono h (by omega)
  · rename_i hz
    exact wfFrom_cons.mpr ⟨hlo, ha, hz, h⟩

theorem readAt_consEntry {a b : Nat} {e : Entry} {m : List (Nat × Entry)}
    (h : wfFrom (a + 1) m = true) :
    readAt (consEntry a e m) b = if b = a then e else readAt m b := by
  unfold consEntry
  split
  · rename_i hz
    split
    · rename_i hb
      rw [hz, hb]
      exact readAt_below h (by omega)
    · rfl
  · by_cases hb : b = a
    · simp [readAt, hb]
    · have hb' : a ≠ b := fun h => hb h.symm
      simp [readAt, hb, hb']

theorem wfFrom_writeAt {lo a : Nat} {e : Entry} {m : List (Nat × Entry)} (hlo : lo ≤ a)
    (ha : a < 1000) (h : wfFrom lo m = true) : wfFrom lo (writeAt m a e) = true := by
  induction m generalizing lo with
  | nil => exact wfFrom_consEntry hlo ha rfl
  | cons p m ih =>
    obtain ⟨b, f⟩ := p
    have hc := wfFrom_cons.mp h
    simp only [writeAt]
    split
    · rename_i hab
      exact wfFrom_consEntry hlo ha (wfFrom_cons.mpr ⟨by omega, hc.2⟩)
    · split
      · rename_i hab
        exact wfFrom_consEntry hlo ha (hab ▸ hc.2.2.2)
      · rename_i h1 h2
        exact wfFrom_cons.mpr ⟨hc.1, hc.2.1, hc.2.2.1, ih (by omega) hc.2.2.2⟩

theorem readAt_writeAt {lo a b : Nat} {e : Entry} {m : List (Nat × Entry)} (h : wfFrom lo m = true) :
    readAt (writeAt m a e) b = if b = a then e else readAt m b := by
  induction m generalizing lo with
  | nil => exact readAt_consEntry rfl
  | cons p m ih =>
    obtain ⟨c, f⟩ := p
    have hc := wfFrom_cons.mp h
    simp only [writeAt]
    split
    · exact readAt_consEntry (wfFrom_cons.mpr ⟨by omega, hc.2⟩)
    · split
      · rename_i hac
        rw [readAt_consEntry (hac ▸ hc.2.2.2)]
        by_cases hb : b = a
        · simp [hb]
        · have hb' : c ≠ b := fun h => hb (by omega)
          simp [readAt, hb, hb']
      · rename_i h1 h2
        by_cases hb : c = b
        · have hb' : b ≠ a := by omega
          simp [readAt, hb, hb']
        · simp only [readAt, hb, if_false]
          exact ih hc.2.2.2

/-- A write keeps the canonical form. -/
theorem wf_write {m : Memory} {i : Slot} {e : Entry} (h : m.wf = true) : (m.write i e).wf = true :=
  wfFrom_writeAt (Nat.zero_le _) i.isLt h

theorem wf_writeDur {m : Memory} {i : Slot} {v : Dur} (h : m.wf = true) :
    (m.writeDur i v).wf = true := wf_write h

/-- A read after a write: the entry written at that slot, the old entry at every other. -/
theorem read_write {m : Memory} {i j : Slot} {e : Entry} (h : m.wf = true) :
    (m.write i e).read j = if j = i then e else m.read j := by
  have := readAt_writeAt (a := i.val) (b := j.val) (e := e) h
  simpa only [read, write, Fin.ext_iff] using this

theorem read_write_same {m : Memory} {i : Slot} {e : Entry} (h : m.wf = true) :
    (m.write i e).read i = e := by simp [read_write h]

theorem read_write_other {m : Memory} {i j : Slot} {e : Entry} (h : m.wf = true) (hne : j ≠ i) :
    (m.write i e).read j = m.read j := by simp [read_write h, hne]

/-- An entry that is not the reset entry is read back whatever the list was: every slot listed before
it is below. -/
theorem readAt_writeAt_nonzero {a : Nat} {e : Entry} {m : List (Nat × Entry)} (h : e ≠ Entry.zero) :
    readAt (writeAt m a e) a = e := by
  induction m with
  | nil => simp [writeAt, consEntry, h, readAt]
  | cons p m ih =>
    obtain ⟨b, f⟩ := p
    simp only [writeAt, consEntry, h, if_false]
    split
    · simp [readAt]
    · split
      · simp [readAt]
      · rename_i h1 h2
        have hb : b ≠ a := fun hb => h2 hb.symm
        simp only [readAt, hb, if_false]
        exact ih

theorem read_write_nonzero {m : Memory} {i : Slot} {e : Entry} (h : e ≠ Entry.zero) :
    (m.write i e).read i = e := readAt_writeAt_nonzero h

/-- The fold access: the duration of one slot, its level and every other slot kept. -/
theorem read_writeDur {m : Memory} {i j : Slot} {v : Dur} (h : m.wf = true) :
    (m.writeDur i v).read j = if j = i then { m.read i with dur := v } else m.read j :=
  read_write h

/-- Slot by slot equal rings in canonical form are equal data. -/
theorem readAt_ext {lo : Nat} {m m' : List (Nat × Entry)} (h : wfFrom lo m = true)
    (h' : wfFrom lo m' = true) (he : ∀ a, lo ≤ a → a < 1000 → readAt m a = readAt m' a) : m = m' := by
  induction m generalizing lo m' with
  | nil =>
    cases m' with
    | nil => rfl
    | cons p m' =>
      obtain ⟨b, f⟩ := p
      rw [wfFrom_cons] at h'
      exact absurd (by simpa [readAt] using (he b h'.1 h'.2.1).symm) h'.2.2.1
  | cons p m ih =>
    obtain ⟨a, e⟩ := p
    have hc := wfFrom_cons.mp h
    have hread := he a hc.1 hc.2.1
    simp only [readAt, if_true] at hread
    cases m' with
    | nil => exact absurd hread hc.2.2.1
    | cons p' m' =>
      obtain ⟨b, f⟩ := p'
      have hc' := wfFrom_cons.mp h'
      have hab : a = b := by
        rcases Nat.lt_trichotomy a b with hlt | heq | hgt
        · rw [readAt_below (lo := b) (wfFrom_cons.mpr ⟨Nat.le_refl b, hc'.2⟩) hlt] at hread
          exact absurd hread hc.2.2.1
        · exact heq
        · have h2 := he b hc'.1 hc'.2.1
          rw [readAt_below (lo := a) (wfFrom_cons.mpr ⟨Nat.le_refl a, hc.2⟩) hgt] at h2
          simp only [readAt, if_true] at h2
          exact absurd h2.symm hc'.2.2.1
      subst hab
      simp only [readAt, if_true] at hread
      subst hread
      have : m = m' := by
        refine ih hc.2.2.2 hc'.2.2.2 (fun c hc1 hc2 => ?_)
        have h3 := he c (by omega) hc2
        have hne : a ≠ c := by omega
        simpa [readAt, hne] using h3
      rw [this]

theorem read_ext {m m' : Memory} (h : m.wf = true) (h' : m'.wf = true)
    (he : ∀ i : Slot, m.read i = m'.read i) : m = m' :=
  readAt_ext h h' (fun a _ ha => he ⟨a, ha⟩)

end Memory

end Sys2Proof.Machine
end

