-- ==== Sys2Proof/Laws/Operands.lean ====
section
/-! SUPPORT. The values of the index functions, as numbers. -/

namespace Sys2Proof.Machine

@[simp] theorem next_val (i : Slot) : (next i).val = (i.val + 1) % 1000 := rfl

@[simp] theorem previous_val (i : Slot) : (previous i).val = (i.val + 999) % 1000 :=
  congrArg (· % 1000) (by simp only [cap]; omega : i.val + cap - 1 = i.val + 999)

@[simp] theorem slotAfter_val (i : Slot) (n : Nat) : (slotAfter i n).val = (i.val + n) % 1000 := rfl

theorem distance_val (a b : Slot) : distance a b = (b.val + 1000 - a.val) % 1000 := rfl

theorem previous_ne_self (i : Slot) : previous i ≠ i := by
  intro h
  have h' := congrArg Fin.val h
  rw [previous_val] at h'
  omega

theorem previous_of_next (i : Slot) : previous (next i) = i := by
  apply Fin.ext
  rw [previous_val, next_val]
  omega

/-- The slot at a given distance is fixed by it. -/
theorem eq_slotAfter_of_distance {a b : Slot} {d : Nat} (h : distance a b = d) :
    b = slotAfter a d := by
  apply Fin.ext
  rw [distance_val] at h
  rw [slotAfter_val]
  omega

@[simp] theorem slotAfter_zero (i : Slot) : slotAfter i 0 = i := by
  apply Fin.ext
  rw [slotAfter_val]
  omega

theorem slotAfter_slotAfter (i : Slot) (m n : Nat) :
    slotAfter (slotAfter i m) n = slotAfter i (m + n) := by
  apply Fin.ext
  simp only [slotAfter_val]
  omega

theorem next_eq_slotAfter (i : Slot) : next i = slotAfter i 1 := rfl

@[simp] theorem slotRun_length (i : Slot) (n : Nat) : (slotRun i n).length = n := by
  induction n generalizing i with
  | zero => rfl
  | succ n ih => simp [slotRun, ih]

/-- The `k`-th slot of a run. -/
theorem slotRun_getElem? (i : Slot) (n k : Nat) (h : k < n) :
    (slotRun i n)[k]? = some (slotAfter i k) := by
  induction n generalizing i k with
  | zero => omega
  | succ n ih =>
    cases k with
    | zero => simp [slotRun]
    | succ k =>
      rw [slotRun, List.getElem?_cons_succ, ih (next i) k (by omega), next_eq_slotAfter,
        slotAfter_slotAfter, Nat.add_comm]

theorem mem_slotRun {i j : Slot} {n : Nat} :
    j ∈ slotRun i n ↔ ∃ k, k < n ∧ j = slotAfter i k := by
  rw [List.mem_iff_getElem?]
  constructor
  · rintro ⟨k, hk⟩
    have hlt : k < n := by
      have := (List.getElem?_eq_some_iff.mp hk).1
      simpa using this
    rw [slotRun_getElem? i n k hlt] at hk
    exact ⟨k, hlt, (Option.some.inj hk).symm⟩
  · rintro ⟨k, hk, rfl⟩
    exact ⟨k, slotRun_getElem? i n k hk⟩

end Sys2Proof.Machine
end

