-- ==== Sys2Proof/Laws/Edge.lean ====
section
/-! SUPPORT. What SyncStep and EDGE can do, said once. -/

namespace Sys2Proof.Machine

/-- Everything SyncStep can do (41_sync.md R171 to R178). -/
theorem syncStep_cases (c : Slot) (s : State) :
    (syncStep c s = s)
    ∨ (s.bc.toNat = 0 ∧ s.qual c = true ∧ syncStep c s = s.firstBlock c)
    ∨ (1 ≤ s.bc.toNat ∧ s.bc.toNat ≤ 9 ∧ s.qual c = true ∧ distance s.lbi c = 21
        ∧ syncStep c s = s.acceptBlock c)
    ∨ (1 ≤ s.bc.toNat ∧ s.bc.toNat ≤ 9 ∧ s.qual c = true ∧ distance s.lbi c ≠ 21
        ∧ s.params.syncRestart = false ∧ syncStep c s = s.clearSync)
    ∨ (1 ≤ s.bc.toNat ∧ s.bc.toNat ≤ 9 ∧ s.qual c = true ∧ distance s.lbi c ≠ 21
        ∧ s.params.syncRestart = true ∧ syncStep c s = s.clearSync.firstBlock c)
    ∨ (s.bc.toNat = 10 ∧ distance s.lbi c = 20 ∧ (s.ring.read c).lvl = true
        ∧ syncStep c s = s.declareReady)
    ∨ (11 ≤ s.bc.toNat ∧ syncStep c s = s.withDetector (Config.unspecifiedDetector s)) := by
  unfold syncStep idleStep accumStep armedStep restartStep
  simp only [nBlocks, blockDist, readyDist]
  by_cases h0 : s.bc.toNat = 0
  · by_cases hq : s.qual c = true <;> simp [h0, hq]
  · by_cases h9 : s.bc.toNat < 10
    · have h1 : 1 ≤ s.bc.toNat := by omega
      have h9' : s.bc.toNat ≤ 9 := by omega
      by_cases hq : s.qual c = true
      · by_cases hd : distance s.lbi c = 21
        · simp [h0, h9, hq, hd, h1, h9']
        · by_cases hr : s.params.syncRestart = true <;> simp [h0, h9, hq, hd, hr, h1, h9']
      · simp [h0, h9, hq]
    · by_cases h10 : s.bc.toNat = 10
      · by_cases hd : distance s.lbi c = 20
        · by_cases hl : (s.ring.read c).lvl = true <;> simp [h10, hd, hl]
        · simp [h10, hd]
      · have h11 : 11 ≤ s.bc.toNat := by omega
        simp [h0, h9, h10, h11]

@[simp] theorem syncStep_ring (c : Slot) (s : State) : (syncStep c s).ring = s.ring := by
  obtain h | ⟨-, -, h⟩ | ⟨-, -, -, -, h⟩ | ⟨-, -, -, -, -, h⟩ | ⟨-, -, -, -, -, h⟩ | ⟨-, -, -, h⟩ | ⟨-, h⟩ :=
    syncStep_cases c s <;> simp [h]

@[simp] theorem syncStep_wr (c : Slot) (s : State) : (syncStep c s).wr = s.wr := by
  obtain h | ⟨-, -, h⟩ | ⟨-, -, -, -, h⟩ | ⟨-, -, -, -, -, h⟩ | ⟨-, -, -, -, -, h⟩ | ⟨-, -, -, h⟩ | ⟨-, h⟩ :=
    syncStep_cases c s <;> simp [h]

@[simp] theorem syncStep_cmdValid (c : Slot) (s : State) : (syncStep c s).cmdValid = s.cmdValid := by
  obtain h | ⟨-, -, h⟩ | ⟨-, -, -, -, h⟩ | ⟨-, -, -, -, -, h⟩ | ⟨-, -, -, -, -, h⟩ | ⟨-, -, -, h⟩ | ⟨-, h⟩ :=
    syncStep_cases c s <;> simp [h]

@[simp] theorem syncStep_cmd (c : Slot) (s : State) : (syncStep c s).cmd = s.cmd := by
  obtain h | ⟨-, -, h⟩ | ⟨-, -, -, -, h⟩ | ⟨-, -, -, -, -, h⟩ | ⟨-, -, -, -, -, h⟩ | ⟨-, -, -, h⟩ | ⟨-, h⟩ :=
    syncStep_cases c s <;> simp [h]

@[simp] theorem syncStep_dedupValid (c : Slot) (s : State) : (syncStep c s).dedupValid = s.dedupValid := by
  obtain h | ⟨-, -, h⟩ | ⟨-, -, -, -, h⟩ | ⟨-, -, -, -, -, h⟩ | ⟨-, -, -, -, -, h⟩ | ⟨-, -, -, h⟩ | ⟨-, h⟩ :=
    syncStep_cases c s <;> simp [h]

@[simp] theorem syncStep_lastCounter (c : Slot) (s : State) : (syncStep c s).lastCounter = s.lastCounter := by
  obtain h | ⟨-, -, h⟩ | ⟨-, -, -, -, h⟩ | ⟨-, -, -, -, -, h⟩ | ⟨-, -, -, -, -, h⟩ | ⟨-, -, -, h⟩ | ⟨-, h⟩ :=
    syncStep_cases c s <;> simp [h]

@[simp] theorem syncStep_lastId0 (c : Slot) (s : State) : (syncStep c s).lastId0 = s.lastId0 := by
  obtain h | ⟨-, -, h⟩ | ⟨-, -, -, -, h⟩ | ⟨-, -, -, -, -, h⟩ | ⟨-, -, -, -, -, h⟩ | ⟨-, -, -, h⟩ | ⟨-, h⟩ :=
    syncStep_cases c s <;> simp [h]

@[simp] theorem syncStep_lastId1 (c : Slot) (s : State) : (syncStep c s).lastId1 = s.lastId1 := by
  obtain h | ⟨-, -, h⟩ | ⟨-, -, -, -, h⟩ | ⟨-, -, -, -, -, h⟩ | ⟨-, -, -, -, -, h⟩ | ⟨-, -, -, h⟩ | ⟨-, h⟩ :=
    syncStep_cases c s <;> simp [h]

@[simp] theorem syncStep_lastId2 (c : Slot) (s : State) : (syncStep c s).lastId2 = s.lastId2 := by
  obtain h | ⟨-, -, h⟩ | ⟨-, -, -, -, h⟩ | ⟨-, -, -, -, -, h⟩ | ⟨-, -, -, -, -, h⟩ | ⟨-, -, -, h⟩ | ⟨-, h⟩ :=
    syncStep_cases c s <;> simp [h]

@[simp] theorem syncStep_decStatus (c : Slot) (s : State) : (syncStep c s).decStatus = s.decStatus := by
  obtain h | ⟨-, -, h⟩ | ⟨-, -, -, -, h⟩ | ⟨-, -, -, -, -, h⟩ | ⟨-, -, -, -, -, h⟩ | ⟨-, -, -, h⟩ | ⟨-, h⟩ :=
    syncStep_cases c s <;> simp [h]

@[simp] theorem syncStep_wordValid (c : Slot) (s : State) : (syncStep c s).wordValid = s.wordValid := by
  obtain h | ⟨-, -, h⟩ | ⟨-, -, -, -, h⟩ | ⟨-, -, -, -, -, h⟩ | ⟨-, -, -, -, -, h⟩ | ⟨-, -, -, h⟩ | ⟨-, h⟩ :=
    syncStep_cases c s <;> simp [h]

@[simp] theorem syncStep_byteValid (c : Slot) (s : State) : (syncStep c s).byteValid = s.byteValid := by
  obtain h | ⟨-, -, h⟩ | ⟨-, -, -, -, h⟩ | ⟨-, -, -, -, -, h⟩ | ⟨-, -, -, -, -, h⟩ | ⟨-, -, -, h⟩ | ⟨-, h⟩ :=
    syncStep_cases c s <;> simp [h]

@[simp] theorem syncStep_shifted (c : Slot) (s : State) : (syncStep c s).shifted = s.shifted := by
  obtain h | ⟨-, -, h⟩ | ⟨-, -, -, -, h⟩ | ⟨-, -, -, -, -, h⟩ | ⟨-, -, -, -, -, h⟩ | ⟨-, -, -, h⟩ | ⟨-, h⟩ :=
    syncStep_cases c s <;> simp [h]

@[simp] theorem syncStep_params (c : Slot) (s : State) : (syncStep c s).params = s.params := by
  obtain h | ⟨-, -, h⟩ | ⟨-, -, -, -, h⟩ | ⟨-, -, -, -, -, h⟩ | ⟨-, -, -, -, -, h⟩ | ⟨-, -, -, h⟩ | ⟨-, h⟩ :=
    syncStep_cases c s <;> simp [h]

@[simp] theorem syncStep_trace (c : Slot) (s : State) : (syncStep c s).trace = s.trace := by
  obtain h | ⟨-, -, h⟩ | ⟨-, -, -, -, h⟩ | ⟨-, -, -, -, -, h⟩ | ⟨-, -, -, -, -, h⟩ | ⟨-, -, -, h⟩ | ⟨-, h⟩ :=
    syncStep_cases c s <;> simp [h]

/-- Everything EDGE can do (40_capture.md R144). -/
theorem execEdge_cases (lvl : Bool) (dur : Dur) (s : State) :
    (s.ready = true ∧ execEdge lvl dur s = .next s)
    ∨ (s.ready = false ∧ dur.toNat ≤ 50 ∧ execEdge lvl dur s = .next (s.fold dur))
    ∨ (s.ready = false ∧ 50 < dur.toNat
        ∧ execEdge lvl dur s = .next (syncStep s.wr (s.append { dur := dur, lvl := lvl }))) := by
  unfold execEdge
  by_cases hr : s.ready = true
  · exact .inl ⟨hr, by simp [hr]⟩
  · by_cases hd : dur.toNat ≤ 50
    · exact .inr (.inl ⟨by simpa using hr, hd, by simp [hr, Sys2Proof.glitch, hd]⟩)
    · exact .inr (.inr ⟨by simpa using hr, by omega, by simp [hr, Sys2Proof.glitch, hd]⟩)

theorem execEdge_append {lvl : Bool} {dur : Dur} {s : State} (hr : s.ready = false)
    (hd : 50 < dur.toNat) :
    execEdge lvl dur s = .next (syncStep s.wr (s.append { dur := dur, lvl := lvl })) := by
  have : ¬ dur.toNat ≤ 50 := by omega
  simp [execEdge, hr, Sys2Proof.glitch, this]

/-- The entry just appended, and the one before it, as SyncStep reads them (40_capture.md R148). -/
theorem append_read_self {s : State} {e : Entry} (h : s.ring.wf = true) :
    (s.append e).ring.read s.wr = e := Memory.read_write_same h

/-- A pulse longer than a glitch is no reset entry, so it is read back whatever the ring's form. -/
theorem append_read_long {s : State} {lvl : Bool} {dur : Dur} (h : 50 < dur.toNat) :
    (s.append { dur := dur, lvl := lvl }).ring.read s.wr = { dur := dur, lvl := lvl } := by
  apply Memory.read_write_nonzero
  intro hz
  have hd : dur = 0#32 := congrArg Entry.dur hz
  rw [hd] at h
  exact absurd h (by decide)

theorem append_read_previous {s : State} {e : Entry} (h : s.ring.wf = true) :
    (s.append e).ring.read (previous s.wr) = s.ring.read (previous s.wr) :=
  Memory.read_write_other h (previous_ne_self s.wr)

end Sys2Proof.Machine
end

