-- ==== Sys2Proof/Laws/Encoding.lean ====
section
/-! SUPPORT. The fields of a word, and a word from its fields. -/

namespace Sys2Proof

@[simp] theorem opField_txn (op : BitVec 3) (lvl : Bool) (dur : Dur) :
    opField (txn op lvl dur) = op := by
  apply BitVec.eq_of_getLsbD_eq
  intro i hi
  simp only [opField, txn, BitVec.getLsbD_extractLsb', BitVec.getLsbD_cast, BitVec.getLsbD_append]
  simp [hi]

@[simp] theorem lvlField_txn (op : BitVec 3) (lvl : Bool) (dur : Dur) :
    lvlField (txn op lvl dur) = lvl := by
  simp only [lvlField, txn, BitVec.getLsbD_cast, BitVec.getLsbD_append]
  simp

@[simp] theorem durField_txn (op : BitVec 3) (lvl : Bool) (dur : Dur) :
    durField (txn op lvl dur) = dur := by
  apply BitVec.eq_of_getLsbD_eq
  intro i hi
  simp only [durField, txn, BitVec.getLsbD_extractLsb', BitVec.getLsbD_cast, BitVec.getLsbD_append]
  simp [hi, show ¬ 33 ≤ i by omega]

/-- A word is laid out from its fields. -/
theorem txn_fields (w : TxnWord) : txn (opField w) (lvlField w) (durField w) = w := by
  apply BitVec.eq_of_getLsbD_eq
  intro i hi
  simp only [txn, opField, lvlField, durField, BitVec.getLsbD_cast, BitVec.getLsbD_append,
    BitVec.getLsbD_extractLsb']
  split
  · split
    · simp [*]
    · have : i = 32 := by omega
      subst this
      simp
  · have : i - (1 + 32) < 3 := by omega
    simp [this, show 33 + (i - (1 + 32)) = i by omega]

/-- Decoding a word that is laid out from its fields. -/
@[simp] theorem decode_txn (op : BitVec 3) (lvl : Bool) (dur : Dur) :
    decode (txn op lvl dur) = instrOf op lvl dur := by
  simp [decode]

theorem opField_cases (op : BitVec 3) :
    op = 0b000#3 ∨ op = 0b001#3 ∨ op = 0b010#3 ∨ op = 0b011#3 ∨ op = 0b100#3 ∨ op = 0b101#3
      ∨ op = 0b110#3 ∨ op = 0b111#3 := by
  revert op
  decide

/-- The mnemonic is found from `op` alone (R93). -/
theorem instrOf_mnemonic (op : BitVec 3) (lvl : Bool) (dur : Dur) :
    (instrOf op lvl dur).mnemonic = (instrOf op false 0#32).mnemonic := by
  rcases opField_cases op with h | h | h | h | h | h | h | h <;> subst h <;> rfl

/-- The opcode table's mask keeps the three bits of `op` alone. -/
theorem txn_and_mask (op : BitVec 3) (lvl : Bool) (dur : Dur) :
    txn op lvl dur &&& 0xE00000000#36 = txn op false 0#32 := by
  have hmask : (0xE00000000#36 : TxnWord)
      = ((0b111#3 : BitVec 3) ++ ((0#1 : BitVec 1) ++ (0#32 : BitVec 32))).cast (by decide) := by decide
  apply BitVec.eq_of_getLsbD_eq
  intro i hi
  rw [BitVec.getLsbD_and, hmask]
  simp only [txn, BitVec.getLsbD_cast, BitVec.getLsbD_append]
  split
  · simp
  · rcases (by omega : i - 33 = 0 ∨ i - 33 = 1 ∨ i - 33 = 2) with h | h | h <;> simp [h]

theorem and_mask (w : TxnWord) : w &&& 0xE00000000#36 = txn (opField w) false 0#32 := by
  conv_lhs => rw [← txn_fields w]
  exact txn_and_mask _ _ _

end Sys2Proof
end

