-- ==== Sys2Proof/Laws/Frame.lean ====
section
/-! SUPPORT. What the token search, the triplet reader and the splitter answer. -/

namespace Sys2Proof.Machine

theorem isToken_cons_succ (x : Symbol) (S : List Symbol) (t : Nat) :
    IsToken (x :: S) (t + 1) ↔ IsToken S t := by simp [IsToken]

theorem isToken_cons_zero (x : Symbol) (S : List Symbol) :
    IsToken (x :: S) 0 ↔ x = .one ∧ S.head? = some .blockGap := by
  cases S <;> simp [IsToken]

theorem isToken_drop (S : List Symbol) (p t : Nat) :
    IsToken (S.drop p) t ↔ IsToken S (p + t) := by
  simp [IsToken, List.getElem?_drop, Nat.add_assoc]

/-- The search finds nothing exactly where there is no token. -/
theorem tokenOffset_none_iff (S : List Symbol) : tokenOffset S = none ↔ ∀ t, ¬IsToken S t := by
  induction S with
  | nil => simp [tokenOffset, IsToken]
  | cons x S ih =>
    rw [tokenOffset]
    split
    · rename_i h
      simp only [reduceCtorEq, false_iff, not_forall, not_not]
      exact ⟨0, (isToken_cons_zero x S).mpr h⟩
    · rename_i h
      rw [Option.map_eq_none_iff, ih]
      constructor
      · rintro hh (_ | t)
        · exact mt (isToken_cons_zero x S).mp h
        · exact mt (isToken_cons_succ x S t).mp (hh t)
      · exact fun hh t => mt (isToken_cons_succ x S t).mpr (hh (t + 1))

/-- The search finds the leftmost token. -/
theorem tokenOffset_some {S : List Symbol} {k : Nat} (h : tokenOffset S = some k) :
    IsToken S k ∧ ∀ u, u < k → ¬IsToken S u := by
  induction S generalizing k with
  | nil => cases h
  | cons x S ih =>
    rw [tokenOffset] at h
    split at h
    · rename_i hx
      cases h
      exact ⟨(isToken_cons_zero x S).mpr hx, fun u hu => absurd hu (Nat.not_lt_zero u)⟩
    · rename_i hx
      obtain ⟨j, hj, rfl⟩ := Option.map_eq_some_iff.mp h
      obtain ⟨hb, hm⟩ := ih hj
      refine ⟨(isToken_cons_succ x S j).mpr hb, fun u hu => ?_⟩
      cases u with
      | zero => exact mt (isToken_cons_zero x S).mp hx
      | succ u => exact mt (isToken_cons_succ x S u).mp (hm u (by omega))

/-- One triplet carries one bit. -/
theorem tripletBit_some_iff (a b c : Symbol) (t : Bool) :
    tripletBit a b c = some t ↔ [a, b, c] = triBitSymbols t := by
  cases a <;> cases b <;> cases c <;> cases t <;> simp [tripletBit, triBitSymbols]

/-- A segment's bits are the bits whose triplets it is made of (43_frame.md R224). -/
theorem tripletBits_some_iff (seg : List Symbol) (ts : List Bool) :
    tripletBits seg = some ts ↔ seg = ts.flatMap triBitSymbols := by
  induction ts generalizing seg with
  | nil =>
    match seg with
    | [] => simp [tripletBits]
    | [_] => simp [tripletBits]
    | [_, _] => simp [tripletBits]
    | _ :: _ :: _ :: _ =>
      simp only [tripletBits]
      split <;> simp
  | cons t ts ih =>
    match seg with
    | [] => cases t <;> simp [tripletBits, triBitSymbols]
    | [_] => cases t <;> simp [tripletBits, triBitSymbols]
    | [_, _] => cases t <;> simp [tripletBits, triBitSymbols]
    | a :: b :: c :: r =>
      have h : tripletBits (a :: b :: c :: r) = some (t :: ts) ↔
          tripletBit a b c = some t ∧ tripletBits r = some ts := by
        simp only [tripletBits]
        rcases tripletBit a b c with _ | x <;> rcases tripletBits r with _ | y <;> simp
      rw [h, tripletBit_some_iff, ih r]
      cases t <;> simp [triBitSymbols, and_assoc]

/-- Ten Words, whatever the string (43_frame.md R221). -/
@[simp] theorem splitFrom_length (S : List Symbol) (n pos : Nat) :
    (splitFrom S n pos).length = n := by
  induction n generalizing pos with
  | zero => rfl
  | succ n ih =>
    rw [splitFrom]
    split <;> simp [ih]

end Sys2Proof.Machine
end

