-- ==== Sys2Proof/Laws/PerInstr.lean ====
section
/-! SUPPORT. Statements made per transaction (LAWS.json "per_instruction"). -/

namespace Sys2Proof.Laws.OpcodeRow

/-- The word of a transaction is admitted by the row of the opcode table that bears its mnemonic, and
by no other row. -/
def Statement (i : Sys2Proof.Instr) : Prop :=
  ∀ r ∈ Sys2Proof.opcodeTable, r.admits (Sys2Proof.encode i) = true ↔ r.mnemonic = i.mnemonic

theorem idle : Statement .idle := by unfold Statement; decide

theorem edge (lvl : Bool) (dur : Sys2Proof.Dur) : Statement (.edge lvl dur) := by
  intro r hr
  have hm : ∀ r ∈ Sys2Proof.opcodeTable, r.mask = 0xE00000000#36 := by decide
  have hr' : ∀ r ∈ Sys2Proof.opcodeTable,
      (0x200000000#36 == r.matchBits) = true ↔ r.mnemonic = "EDGE" := by decide
  simp only [Sys2Proof.OpcodeRow.admits, hm r hr, Sys2Proof.encode, Sys2Proof.txn_and_mask]
  exact hr' r hr

theorem syncReset : Statement .syncReset := by unfold Statement; decide

theorem cmdAccept : Statement .cmdAccept := by unfold Statement; decide

theorem reset : Statement .reset := by unfold Statement; decide

theorem decode : Statement .decode := by unfold Statement; decide

theorem reserved110 : Statement .reserved110 := by unfold Statement; decide

theorem reserved111 : Statement .reserved111 := by unfold Statement; decide

end Sys2Proof.Laws.OpcodeRow
end

