-- ==== Sys2Proof/Laws/Pulse.lean ====
section
/-! SUPPORT. The pulse tests, as numbers. -/

namespace Sys2Proof.Machine

theorem Entry.isSyncLow_iff (e : Entry) :
    e.isSyncLow = true ↔ e.lvl = false ∧ 2750 ≤ e.dur.toNat ∧ e.dur.toNat ≤ 3650 := by
  simp only [Entry.isSyncLow, Bool.and_eq_true, Bool.not_eq_true', decide_eq_true_eq, and_assoc]
  exact Iff.rfl

theorem Entry.isSyncHigh_iff (e : Entry) :
    e.isSyncHigh = true ↔ e.lvl = true ∧ 200 < e.dur.toNat ∧ e.dur.toNat < 600 := by
  simp only [Entry.isSyncHigh, Bool.and_eq_true, decide_eq_true_eq, and_assoc]
  exact Iff.rfl

/-- The detector's test on the entry just appended is the test on the pulse presented. -/
theorem qual_append_iff {s : State} {lvl : Bool} {dur : Dur} (h : s.ring.wf = true) :
    (s.append { dur := dur, lvl := lvl }).qual s.wr = true ↔ SyncPulse s lvl dur := by
  rw [State.qual, Bool.and_eq_true, Entry.isSyncLow_iff, Entry.isSyncHigh_iff, append_read_self h,
    append_read_previous h, and_assoc, and_assoc]

/-- One more block: the count does not wrap while Accumulating. -/
theorem blockCount_succ {b : BlockCount} (h : b.toNat ≤ 9) : (b + 1).toNat = b.toNat + 1 := by
  rw [BitVec.toNat_add]
  show (b.toNat + 1) % 16 = _
  omega

/-- The classifier with its bounds as numbers (42_symbol.md R200). -/
theorem classify_eq (e : Entry) :
    classify e =
      if 200 < e.dur.toNat ∧ e.dur.toNat < 600 then [levelSymbol e.lvl]
      else if 600 < e.dur.toNat ∧ e.dur.toNat < 1000 then [levelSymbol e.lvl, levelSymbol e.lvl]
      else if 2750 ≤ e.dur.toNat ∧ e.dur.toNat ≤ 3650 then [.blockGap]
      else if 3650 < e.dur.toNat then [.messageGap]
      else [.error] := by
  simp only [classify, Bool.and_eq_true, decide_eq_true_eq]
  rfl

theorem classify_length (e : Entry) : 1 ≤ (classify e).length ∧ (classify e).length ≤ 2 := by
  rw [classify_eq]
  repeat' split
  all_goals simp

end Sys2Proof.Machine
end

