-- ==== Sys2Proof/Laws/Step.lean ====
section
/-! SUPPORT. What one transaction and one step can do, said once. -/

namespace Sys2Proof.Machine

/-- Everything a transaction that completes can do: one case for each effect the spec gives. -/
theorem exec_next_cases {i : Instr} {s t : State} (h : exec i s = .next t) :
    (t = s ∧ (i = .idle ∨ i = .reserved110 ∨ i = .reserved111))
    ∨ (∃ lvl dur, i = .edge lvl dur ∧ s.ready = true ∧ t = s)
    ∨ (∃ lvl dur, i = .edge lvl dur ∧ s.ready = false ∧ dur.toNat ≤ 50 ∧ t = s.fold dur)
    ∨ (∃ lvl dur, i = .edge lvl dur ∧ s.ready = false ∧ 50 < dur.toNat
        ∧ t = syncStep s.wr (s.append { dur := dur, lvl := lvl }))
    ∨ (i = .syncReset ∧ t = s.clearSync.clearReady)
    ∨ (i = .cmdAccept ∧ t = { s with cmdValid := false })
    ∨ (i = .reset ∧ t = { State.reset with params := s.params, trace := s.trace })
    ∨ (i = .decode ∧ s.decodeEnabled = true ∧ t = decodeFrame s) := by
  cases i with
  | idle => exact .inl ⟨(Host.Outcome.next.inj h).symm, .inl rfl⟩
  | reserved110 => exact .inl ⟨(Host.Outcome.next.inj h).symm, .inr (.inl rfl)⟩
  | reserved111 => exact .inl ⟨(Host.Outcome.next.inj h).symm, .inr (.inr rfl)⟩
  | edge lvl dur =>
    obtain ⟨hr, he⟩ | ⟨hr, hd, he⟩ | ⟨hr, hd, he⟩ := execEdge_cases lvl dur s
    · exact .inr (.inl ⟨lvl, dur, rfl, hr, (Host.Outcome.next.inj (he.symm.trans h)).symm⟩)
    · exact .inr (.inr (.inl ⟨lvl, dur, rfl, hr, hd, (Host.Outcome.next.inj (he.symm.trans h)).symm⟩))
    · exact .inr (.inr (.inr (.inl
        ⟨lvl, dur, rfl, hr, hd, (Host.Outcome.next.inj (he.symm.trans h)).symm⟩)))
  | syncReset =>
    exact .inr (.inr (.inr (.inr (.inl ⟨rfl, (Host.Outcome.next.inj h).symm⟩))))
  | cmdAccept =>
    exact .inr (.inr (.inr (.inr (.inr (.inl ⟨rfl, (Host.Outcome.next.inj h).symm⟩)))))
  | reset =>
    exact .inr (.inr (.inr (.inr (.inr (.inr (.inl ⟨rfl, (Host.Outcome.next.inj h).symm⟩))))))
  | decode =>
    cases hen : s.decodeEnabled with
    | false =>
      exact absurd ((execDecode_of_not_enabled hen).symm.trans h) (by simp)
    | true =>
      exact .inr (.inr (.inr (.inr (.inr (.inr (.inr
        ⟨rfl, rfl, (Host.Outcome.next.inj ((execDecode_of_enabled hen).symm.trans h)).symm⟩))))))

/-- What the fetch answers when a word is waiting. -/
theorem fetch_cons {s : State} {w : TxnWord} {rest : List TxnWord} (h : s.trace = w :: rest) :
    fetch s = (Sys2Proof.decode w, { s with trace := rest }) := by
  simp [fetch, h]

/-- What the fetch answers when none is. -/
theorem fetch_nil {s : State} (h : s.trace = []) :
    fetch s = (if s.decodeEnabled then .decode else .idle, s) := by
  simp [fetch, h]

/-- A step runs one transaction on a state that differs from `s` in the trace alone. -/
theorem step_eq_exec (s : State) :
    ∃ i rest, step s = exec i { s with trace := rest } := by
  cases h : s.trace with
  | nil => exact ⟨_, s.trace, by simp only [step, fetch_nil h]; rfl⟩
  | cons w rest => exact ⟨Sys2Proof.decode w, rest, by simp only [step, fetch_cons h]⟩

theorem run_zero (s : State) : Sys2Proof.core.run 0 s = .next s := rfl

theorem run_succ {s u : State} (n : Nat) (h : step s = .next u) :
    Sys2Proof.core.run (n + 1) s = Sys2Proof.core.run n u := by
  have h' : Sys2Proof.core.step s = .next u := h
  simp only [Host.Core.run, h']

/-- A run of one step and more that ends in a next state begins with a step that has one. -/
theorem run_succ_next {s t : State} {n : Nat} (h : Sys2Proof.core.run (n + 1) s = .next t) :
    ∃ u, step s = .next u ∧ Sys2Proof.core.run n u = .next t := by
  cases hst : step s with
  | next u => exact ⟨u, rfl, run_succ n hst ▸ h⟩
  | fault r => exact nomatch r
  | refused r =>
    have h' : Sys2Proof.core.step s = .refused r := hst
    simp only [Host.Core.run, h'] at h
    cases h

/-- Runs compose. -/
theorem run_add {s u : State} {m : Nat} (n : Nat) (h : Sys2Proof.core.run m s = .next u) :
    Sys2Proof.core.run (m + n) s = Sys2Proof.core.run n u := by
  induction m generalizing s with
  | zero =>
    cases h
    rw [Nat.zero_add]
  | succ m ih =>
    obtain ⟨v, hv, hr⟩ := run_succ_next h
    rw [Nat.add_right_comm, run_succ _ hv, ih hr]

/-- What a state meets and every step keeps, every state of a run meets. -/
theorem run_keeps {P : State → Prop} (keep : ∀ s t, P s → step s = .next t → P t) {s t : State}
    {n : Nat} (hs : P s) (h : Sys2Proof.core.run n s = .next t) : P t := by
  induction n generalizing s with
  | zero =>
    cases h
    exact hs
  | succ n ih =>
    obtain ⟨u, hu, hr⟩ := run_succ_next h
    exact ih (keep s u hs hu) hr

/-- What the state after RESET meets, for the parameters and the trace it keeps, and every step keeps,
every state of a run that began with RESET meets. -/
theorem launchedFrom_keeps {P : State → Prop} {before s : State} (h : before.LaunchedFrom s)
    (h0 : P { State.reset with params := before.params, trace := before.trace })
    (keep : ∀ s t, P s → step s = .next t → P t) : P s := by
  obtain ⟨start, n, hr, hn⟩ := h
  cases hr
  exact run_keeps keep h0 hn

end Sys2Proof.Machine
end

