-- ==== Sys2Proof/Tests/Slice0.lean ====
section
/-! SUPPORT. Tests, each expected value taken from the spec (95_test_vectors.md, or a rule's own
example), and for every statement with hypotheses a state and operands that meet them. -/

open Sys2Proof Sys2Proof.Machine

namespace Sys2Proof.Tests

/-- The next state, where there is one. -/
def after (i : Instr) (s : State) : Option State :=
  match exec i s with
  | .next t => some t
  | .fault _ => none
  | .refused _ => none

/-- The detector's registers. -/
def sync (s : State) : Nat × Nat × Nat × Bool := (s.bc.toNat, s.start.val, s.lbi.val, s.ready)

/-- A ring that holds two entries, at the slots given. -/
def ringOf (a : Nat) (e : Entry) (b : Nat) (f : Entry) : Memory := [(a, e), (b, f)]

def high (d : Nat) : Entry := { dur := BitVec.ofNat 32 d, lvl := true }

def low (d : Nat) : Entry := { dur := BitVec.ofNat 32 d, lvl := false }

/-- The detector has accepted `bc` blocks, its last one just before slot `lbi`; the cursor is at `wr`
and the entry before it is `e`. -/
def locked (bc : BlockCount) (start lbi wr : Slot) (e : Entry) : State :=
  { State.reset with bc := bc, start := start, lbi := lbi, wr := wr, ring := [((previous wr).val, e)] }

/-- Ready as after 95_test_vectors.md P1's 221 EDGEs, the slice holding the given pulses. -/
def pending (es : List Entry) : State :=
  { State.reset with
    bc := 10, start := 2, lbi := 200, wr := 221, ready := true
    ring := es.zipIdx.map fun p => (p.2 + 2, p.1) }

def p1 : FrameBytes := ⟨0x43, 0xCD, 0xEF, 0x2A, 0x1C⟩

theorem readAt_zipIdx (es : List Entry) (n k : Nat) (e : Entry) (h : es[k]? = some e) :
    Memory.readAt ((es.zipIdx n).map fun p => (p.2 + 2, p.1)) (n + k + 2) = e := by
  induction es generalizing n k with
  | nil => cases h
  | cons x es ih =>
    cases k with
    | zero =>
      rw [List.getElem?_cons_zero] at h
      simpa [List.zipIdx_cons, Memory.readAt] using Option.some.inj h
    | succ k =>
      have hne : ¬n = n + (k + 1) := by omega
      rw [List.getElem?_cons_succ] at h
      simpa [List.zipIdx_cons, Memory.readAt, hne, Nat.add_assoc, Nat.add_comm 1 k] using ih (n + 1) k h

/-- The slice of `pending` holds the pulses it was given. -/
theorem pending_triBitString (es : List Entry) (h : es.length = 218) :
    (pending es).triBitString = symbolsOf es := by
  have hd : (pending es).slice = slotRun 2 218 :=
    congrArg (slotRun 2) (show distance 2 (slotAfter 200 readyDist) = 218 by decide)
  rw [State.triBitString, State.frameEntries, hd]
  refine congrArg symbolsOf (List.ext_getElem? fun k => ?_)
  by_cases hk : k < 218
  · obtain ⟨e, he⟩ : ∃ e, es[k]? = some e := ⟨_, List.getElem?_eq_getElem (by omega)⟩
    have h2 : (slotAfter 2 k).val = 0 + k + 2 := by
      have : (2 : Slot).val = 2 := rfl
      rw [slotAfter_val]
      omega
    rw [List.getElem?_map, slotRun_getElem? _ _ _ hk, Option.map_some, he, Memory.read, h2]
    exact congrArg some (readAt_zipIdx es 0 k e he)
  · rw [List.getElem?_eq_none (by simp; omega), List.getElem?_eq_none (by omega)]

/-! ## Words written out from the encodings (30_encoding.md R93, R94, R110, R111) -/

theorem test_word_edge_high : Sys2Proof.decode 0x300000190#36 = .edge true 400#32 := by decide
theorem test_word_edge_low : Sys2Proof.decode 0x2000007D0#36 = .edge false 2000#32 := by decide
theorem test_word_idle : Sys2Proof.decode 0x000000000#36 = .idle := by decide
theorem test_word_sync_reset : Sys2Proof.decode 0x400000190#36 = .syncReset := by decide
theorem test_word_cmd_accept : Sys2Proof.decode 0x600000000#36 = .cmdAccept := by decide
theorem test_word_reset : Sys2Proof.decode 0x800000000#36 = .reset := by decide
theorem test_word_decode : Sys2Proof.decode 0xA00000000#36 = .decode := by decide
theorem test_word_reserved110 : Sys2Proof.decode 0xC00000000#36 = .reserved110 := by decide
theorem test_word_reserved111 : Sys2Proof.decode 0xE00000000#36 = .reserved111 := by decide
theorem test_encode_edge : Sys2Proof.encode (.edge false 3200#32) = 0x200000C80#36 := by decide
theorem test_encode_decode : Sys2Proof.encode .decode = 0xA00000000#36 := by decide
theorem test_table_word : decodeTableWord 40 0x30000000A = some (.edge true 10#32) := by decide
theorem test_table_word_too_wide : decodeTableWord 40 0x1000000000 = none := by decide
theorem test_number_too_wide :
    decodeNat 0x1000000000 = .error (.wordTooWide 0x1000000000) := by decide

/-! ## Ill-formed terms, one for each check -/

theorem test_edge_line_fits : (Line.edge 4294967295 true).wellFormed = true := by decide
theorem test_edge_line_too_long : (Line.edge 4294967296 true).wellFormed = false := by decide
theorem test_word_line_too_big : (Line.word 256).wellFormed = false := by decide
theorem test_frame_line_too_big : (Line.frame 0x43 0xCD 0xEF 0x2A 256).wellFormed = false := by decide
theorem test_glitch_line_at_bound : (Line.glitch 50).wellFormed = true := by decide
theorem test_glitch_line_too_long : (Line.glitch 51).wellFormed = false := by decide
theorem test_ill_formed_line_has_no_expansion : expand (.glitch 51) = none := by decide
theorem test_decode_not_presentable : Instr.decode.presentable = false := by decide
theorem test_reserved110_not_presentable : Instr.reserved110.presentable = false := by decide
theorem test_reserved111_not_presentable : Instr.reserved111.presentable = false := by decide

/-! ## The pseudo-operations (R111, and the words of 95_test_vectors.md P1) -/

theorem test_frame_begins_as_P1 :
    ((frameOps p1).map Sys2Proof.encode).take 8
      = [0x300000190, 0x200000C80, 0x300000190, 0x200000320, 0x300000190, 0x200000320, 0x300000320,
          0x200000190] := by decide
theorem test_frame_has_221_edges : (frameOps p1).length = 221 := by decide +kernel

/-! ## One step (95_test_vectors.md sections 2.1, 2.2, 2.7, 2.8) -/

/-- V-CAP-4's second EDGE: the fold wraps modulo 2^32. -/
theorem test_edge_fold_wraps :
    (after (.edge true 50) { State.reset with wr := 1, ring := [(0, low 4294967295)] }).map
      (fun t => (t.ring, t.wr.val)) = some ([(0, low 49)], 1) := by decide
/-- V-CAP-5: an append at slot 999. -/
theorem test_edge_append_at_top :
    (after (.edge false 3200) { State.reset with wr := 999 }).map (fun t => (t.ring, t.wr.val))
      = some ([(999, low 3200)], 0) := by decide
/-- V-SYN-13: a misalignment, under both values of SYNC_RESTART. -/
theorem test_misalignment :
    (after (.edge false 3200) (locked 2 2 24 44 (high 400))).map sync = some (0, 0, 0, false)
      ∧ (after (.edge false 3200)
          { locked 2 2 24 44 (high 400) with params := ⟨.five, true⟩ }).map sync
        = some (1, 45, 45, false) := by decide
/-- V-SYN-15 and V-SYN-17: the level decides at distance 20, the duration does not. -/
theorem test_armed :
    (after (.edge false 400) (locked 10 2 200 220 (low 400))).map sync = some (10, 2, 200, false)
      ∧ (after (.edge true 5000) (locked 10 2 200 220 (low 400))).map sync
        = some (10, 2, 200, true) := by decide
/-- R147 on a count no run reaches (log entry 15): the EDGE is stored and the cursor moves on all the same. -/
theorem test_edge_on_illegal_count :
    ∃ t, exec (.edge true 400) { State.reset with bc := 13 } = .next t ∧ t.ring = [(0, high 400)]
      ∧ t.wr.val = 1 :=
  ⟨_, rfl, rfl, rfl⟩
/-- V-SYN-18. -/
theorem test_sync_reset :
    (after .syncReset { locked 7 2 134 150 (low 400) with ready := false }).map
      (fun t => (sync t, t.wr.val)) = some ((0, 0, 0, false), 150) := by decide
/-- V-DEC-3. -/
theorem test_cmd_accept :
    (after .cmdAccept { State.reset with cmdValid := true, cmd := commandOf Config.default p1 }).map
      (fun t => (t.cmdValid, t.cmdData)) = some (false, 0x0843CDEF05FB0304) := by decide
/-- V-RST-1. -/
theorem test_reset :
    (after .reset (pending (cleanFramePulses p1))).map (fun t => (t.stat, t.cmdData, t.captureEn, t.ring))
      = some (0, 0, true, []) := by decide +kernel
/-- V-DEC-1: P1's DECODE. -/
theorem test_decode_P1 :
    (after .decode (pending (cleanFramePulses p1))).map
      (fun t => (t.cmdData, t.stat)) = some (0x0843CDEF05FB0304, 0x3FFF960) := by decide +kernel
/-- R301: the detector is cleared and the cursor kept on a failed decode too. -/
theorem test_decode_failed :
    (after .decode (pending [])).map (fun t => (sync t, t.wr.val, t.decStatus))
      = some ((0, 0, 0, false), 221, 3) := by decide +kernel
/-- V-CMD-8: LEAD_W = 4. -/
theorem test_decode_lead_four :
    (after .decode
        { pending (cleanFramePulses ⟨0x8B, 0xCD, 0xEF, 0x59, 0x34⟩) with params := ⟨.four, false⟩ }).map
      (fun t => (t.cmdData, t.stat)) = some (0x088BCDEF05020304, 0x3FFF960) := by decide +kernel
/-- V-DEC-5. -/
theorem test_idle : after .idle State.reset = some State.reset := by decide
theorem test_reserved110 : after .reserved110 State.reset = some State.reset := by decide
theorem test_reserved111 : after .reserved111 State.reset = some State.reset := by decide
/-- A DECODE listed where it is not enabled (R95 (c)). -/
theorem test_decode_refused : after .decode State.reset = none := by decide
/-- The next word is fetched and run (V-CAP-1). -/
theorem test_fetch_word :
    (fetch (State.reset.withFetchWord 40 0x300000190)).1 = .edge true 400 := by decide

/-! ## Functions (95_test_vectors.md sections 2.3 to 2.6) -/

theorem test_classify_bounds :
    [200, 201, 599, 600, 601, 999, 1000, 2749, 2750, 3650, 3651].map (fun d => classify (high d))
      = [[.error], [.one], [.one], [.error], [.one, .one], [.one, .one], [.error], [.error],
          [.blockGap], [.blockGap], [.messageGap]] := by decide
/-- V-RED-2 and V-RED-4. -/
theorem test_merge :
    merge [some 1, some 2, some 2, some 3, some 3, some 4, some 4, some 5, some 5, some 9]
        = ([some 1, some 2, some 3, some 4, some 5], true)
      ∧ merge [some 1, some 1, none, none, some 3, some 4, none, some 4, some 5, none]
        = ([some 1, none, none, some 4, some 5], false) := by decide
theorem test_distance : distance 998 2 = 4 ∧ distance 2 998 = 996 ∧ distance 7 7 = 0 := by decide
/-- V-FRM-12's shape: an empty raw between two tokens. -/
theorem test_split_empty_raw :
    let w := (txBits 0x43).flatMap triBitSymbols ++ (triBitSymbols false ++ triBitSymbols false)
    split (w ++ ([.one, .blockGap, .one, .blockGap] ++ w))
      = [some 0x43, none, some 0x43, none, none, none, none, none, none, none] := by decide +kernel

/-! ## Witnesses: for each statement with hypotheses, a state and operands that meet them together, one
for each clause and at the bounds of its range. An obligation not named here has no hypothesis. -/

/-- 95_test_vectors.md P1's frame, ready to be decoded. -/
def framed : State := pending (cleanFramePulses p1)

/-- The same frame, its key being the last one emitted. -/
def repeated : State :=
  { framed with dedupValid := true, lastCounter := 5, lastId0 := 0x43, lastId1 := 0xCD, lastId2 := 0xEF }

/-- A frame whose type code is 0, then one whose action code is 0. -/
def untyped : FrameBytes := ⟨0x00, 0xCD, 0xEF, 0x2A, 0x1C⟩

def inactive : FrameBytes := ⟨0x43, 0xCD, 0xEF, 0x2A, 0x18⟩

/-- A frame of a Plain sender. -/
def plain : FrameBytes := ⟨0x0B, 0xCD, 0xEF, 0x2A, 0x1C⟩

/-- The detector in the Accumulating phase with this many blocks, one word after its last one. -/
def accumulating (bc : BlockCount) (n : Nat) : State :=
  locked bc 2 (slotAfter 2 (22 * n)) (slotAfter 2 (22 * n + 21)) (high 400)

theorem bytes_of {f : FrameBytes} (h : (cleanFramePulses f).length = 218)
    (hs : (merge (split (symbolsOf (cleanFramePulses f)))).1 = validBytes f) :
    (pending (cleanFramePulses f)).frameBytes = validBytes f := by
  rw [State.frameBytes, State.frameWords, pending_triBitString _ h, hs]

theorem framed_bytes : framed.frameBytes = validBytes p1 :=
  bytes_of (by decide +kernel) (by decide +kernel)

theorem repeated_bytes : repeated.frameBytes = validBytes p1 := framed_bytes

theorem untyped_bytes : (pending (cleanFramePulses untyped)).frameBytes = validBytes untyped :=
  bytes_of (by decide +kernel) (by decide +kernel)

theorem inactive_bytes : (pending (cleanFramePulses inactive)).frameBytes = validBytes inactive :=
  bytes_of (by decide +kernel) (by decide +kernel)

theorem plain_bytes : (pending (cleanFramePulses plain)).frameBytes = validBytes plain :=
  bytes_of (by decide +kernel) (by decide +kernel)

theorem framed_outcome :
    commandOutcome framed framed.frameBytes = (.emitted, some (commandOf Config.default p1)) := by
  rw [framed_bytes]
  decide +kernel

theorem repeated_outcome : commandOutcome repeated repeated.frameBytes = (.suppressed, none) := by
  rw [repeated_bytes]
  decide +kernel

theorem untyped_outcome :
    commandOutcome (pending (cleanFramePulses untyped)) (pending (cleanFramePulses untyped)).frameBytes
      = (.unrecType, none) := by
  rw [untyped_bytes]
  decide +kernel

theorem untyped_enabled : (pending (cleanFramePulses untyped)).decodeEnabled = true := rfl

theorem framed_enabled : framed.decodeEnabled = true := rfl

theorem repeated_enabled : repeated.decodeEnabled = true := rfl

theorem witness_DecodeFollowsTheOpcodeTable :
    opcodeTable ≠ [] ∧ Sys2Proof.decode 0x3FFFFFFFF#36 = .edge true 4294967295#32
      ∧ Sys2Proof.decode 0x200000000#36 = .edge false 0#32 := by decide

theorem witness_ReservedAndIgnoredEncodings :
    (0x1FFFFFFFF#36 &&& 0xE00000000#36 ≠ 0x200000000#36
        ∧ 0x1FFFFFFFF#36 &&& 0xE00000000#36 = 0x000000000#36 &&& 0xE00000000#36)
      ∧ ¬(State.reset.ready = true ∧ State.reset.cmdValid = false)
      ∧ ¬({ framed with cmdValid := true }.ready = true
          ∧ { framed with cmdValid := true }.cmdValid = false)
      ∧ Instr.reset ∈ PortCycle.transactions ⟨true, true, true, 400, true, true⟩
      ∧ Instr.cmdAccept ∈ PortCycle.transactions ⟨false, true, true, 400, true, true⟩ := by
  decide +kernel

theorem witness_StepRunsTheNextTransaction :
    (State.reset.withFetchWord 40 0x300000190).trace = [0x300000190#36] := by decide

theorem witness_ExhaustedRunEndsWithOneDecode :
    (framed.trace = [] ∧ framed.decodeEnabled = true)
      ∧ State.reset.trace = [] ∧ State.reset.decodeEnabled = false := by decide +kernel

theorem witness_EveryTransactionHasANextState :
    (Instr.decode = .decode → framed.ready = true ∧ framed.cmdValid = false)
      ∧ (Instr.idle = .decode → State.reset.ready = true ∧ State.reset.cmdValid = false) := by
  decide +kernel

theorem witness_EdgeWhileReadyIsDropped : framed.ready = true := by decide +kernel

theorem witness_GlitchEdgeFoldsIntoTheLastEntry :
    (locked 3 2 46 50 (low 4294967295)).ready = false
      ∧ (50#32).toNat ≤ 50 ∧ (0#32).toNat ≤ 50
      ∧ (locked 3 2 46 50 (low 4294967295)).ring.wf = true := by decide

theorem witness_LongEdgeIsAppended :
    (locked 3 2 46 999 (low 400)).ready = false ∧ 50 < (51#32).toNat
      ∧ (locked 3 2 46 999 (low 400)).ring.wf = true := by decide

theorem witness_EdgeFrame :
    (locked 3 2 46 0 (low 400)).ring.wf = true ∧ framed.ring.wf = true
      ∧ edgeStoreSlot 50 (locked 3 2 46 0 (low 400)) = some 999
      ∧ edgeStoreSlot 51 (locked 3 2 46 0 (low 400)) = some 0
      ∧ edgeStoreSlot 51 framed = none := by decide +kernel

theorem witness_RingEntryChangesInThreeWaysOnly :
    (locked 3 2 46 50 (low 400)).ring.wf = true
      ∧ (∃ t, exec (.edge true 50) (locked 3 2 46 50 (low 400)) = .next t
          ∧ t.ring.read 49 ≠ (locked 3 2 46 50 (low 400)).ring.read 49)
      ∧ (∃ t, exec (.edge true 51) (locked 3 2 46 50 (low 400)) = .next t
          ∧ t.ring.read 50 ≠ (locked 3 2 46 50 (low 400)).ring.read 50)
      ∧ (∃ t, exec .reset (locked 3 2 46 50 (low 400)) = .next t
          ∧ t.ring.read 49 ≠ (locked 3 2 46 50 (low 400)).ring.read 49) :=
  ⟨by decide, ⟨_, rfl, by decide⟩, ⟨_, rfl, by decide⟩, ⟨_, rfl, by decide⟩⟩

/-- The bounds of R170, both sides of each. -/
theorem witness_QualifyingSyncPulse :
    [(201, 2750, true), (599, 3650, true), (200, 3200, false), (600, 3200, false), (400, 2749, false),
      (400, 3651, false)].all (fun p =>
        State.qual { State.reset with ring := ringOf 0 (high p.1) 1 (low p.2.1) } 1 == p.2.2)
      = true := by decide

/-- In Idle: a qualifying pulse at each bound, and pulses just outside. -/
theorem witness_IdleEdgeLocksOnASyncPulse :
    (locked 0 0 0 999 (high 201)).ring.wf = true ∧ (locked 0 0 0 999 (high 201)).bc.toNat = 0
      ∧ Appends (locked 0 0 0 999 (high 201)) 2750 ∧ SyncPulse (locked 0 0 0 999 (high 201)) false 2750
      ∧ SyncPulse (locked 0 0 0 0 (high 599)) false 3650
      ∧ Appends (locked 0 0 0 0 (high 599)) 2749 ∧ ¬SyncPulse (locked 0 0 0 0 (high 599)) false 2749
      ∧ ¬SyncPulse (locked 0 0 0 0 (high 599)) false 3651
      ∧ ¬SyncPulse (locked 0 0 0 0 (high 600)) false 3200
      ∧ ¬SyncPulse (locked 0 0 0 0 (high 200)) false 3200 := by decide

theorem witness_AccumulatingEdgeCountsOrMisaligns :
    (accumulating 1 0).ring.wf = true ∧ 1 ≤ (accumulating 1 0).bc.toNat ∧ (accumulating 1 0).bc.toNat ≤ 9
      ∧ Appends (accumulating 1 0) 2750 ∧ SyncPulse (accumulating 1 0) false 2750
      ∧ distance (accumulating 1 0).lbi (accumulating 1 0).wr = 21
      ∧ (accumulating 9 8).ring.wf = true ∧ (accumulating 9 8).bc.toNat ≤ 9
      ∧ SyncPulse (accumulating 9 8) false 3650
      ∧ distance (accumulating 9 8).lbi (accumulating 9 8).wr = 21
      ∧ SyncPulse (locked 2 2 24 44 (high 400)) false 3200
      ∧ distance (locked 2 2 24 44 (high 400)).lbi (locked 2 2 24 44 (high 400)).wr = 20
      ∧ SyncPulse (locked 2 2 24 46 (high 400)) false 3200
      ∧ distance (locked 2 2 24 46 (high 400)).lbi (locked 2 2 24 46 (high 400)).wr = 22
      ∧ (locked 2 2 24 44 (high 400)).params.syncRestart = false
      ∧ SyncPulse { locked 2 2 24 44 (high 400) with params := ⟨.four, true⟩ } false 3200
      ∧ ¬SyncPulse (accumulating 1 0) true 2750 ∧ ¬SyncPulse (accumulating 1 0) false 400 := by decide

theorem witness_ArmedEdgeDeclaresReady :
    (locked 10 2 200 220 (low 400)).ring.wf = true ∧ (locked 10 2 200 220 (low 400)).bc.toNat = 10
      ∧ Appends (locked 10 2 200 220 (low 400)) 51
      ∧ distance (locked 10 2 200 220 (low 400)).lbi (locked 10 2 200 220 (low 400)).wr = 20
      ∧ Appends (locked 10 2 200 219 (low 400)) 51
      ∧ distance (locked 10 2 200 219 (low 400)).lbi (locked 10 2 200 219 (low 400)).wr = 19 := by
  decide

/-- RESET taken with BC = 13 and DEC_STATUS = 7, which only the state before it can hold (R352). -/
theorem launched_unknown :
    { State.reset with bc := 13, decStatus := 7, ready := true }.LaunchedFrom State.reset :=
  ⟨State.reset, 0, rfl, rfl⟩

theorem launched_reset : State.reset.Launched := ⟨_, launched_unknown⟩

theorem witness_BlockCountCountsUpOrClears :
    State.reset.Launched ∧ (accumulating 9 8).bc.toNat ≤ 10 ∧ (locked 10 2 200 220 (low 400)).bc.toNat ≤ 10
      ∧ (∃ t, exec (.edge false 3200) (accumulating 9 8) = .next t ∧ t.bc.toNat = 10)
      ∧ (∃ t, exec (.edge false 3200) (locked 0 0 0 1 (high 400)) = .next t ∧ t.bc.toNat = 1)
      ∧ (∃ t, exec (.edge false 3200) (locked 9 2 24 44 (high 400)) = .next t ∧ t.bc.toNat = 0)
      ∧ (∃ t, exec (.edge false 3200)
            { locked 9 2 24 44 (high 400) with params := ⟨.five, true⟩ } = .next t ∧ t.bc.toNat = 1)
      ∧ (∃ t, exec .syncReset (accumulating 9 8) = .next t ∧ t.bc.toNat = 0) :=
  ⟨launched_reset, by decide, by decide, ⟨_, rfl, by decide⟩, ⟨_, rfl, by decide⟩, ⟨_, rfl, by decide⟩, ⟨_, rfl, by decide⟩,
    ⟨_, rfl, by decide⟩⟩

theorem witness_PhaseIsAFunctionOfCountAndReady :
    (State.reset.Inv ∧ State.reset.phase = .idle)
      ∧ ((accumulating 1 0).Inv ∧ (accumulating 1 0).phase = .accumulating)
      ∧ ((accumulating 9 8).Inv ∧ (accumulating 9 8).phase = .accumulating)
      ∧ ((locked 10 2 200 220 (low 400)).Inv ∧ (locked 10 2 200 220 (low 400)).phase = .armed)
      ∧ (framed.Inv ∧ framed.phase = .ready) := by decide +kernel

theorem witness_PhaseCycle :
    ((locked 0 0 0 1 (high 400)).Inv ∧ ∃ t, exec (.edge false 3200) (locked 0 0 0 1 (high 400)) = .next t
        ∧ t.phase = .accumulating)
      ∧ ((accumulating 9 8).Inv ∧ ∃ t, exec (.edge false 3200) (accumulating 9 8) = .next t
          ∧ t.phase = .armed)
      ∧ ((locked 2 2 24 44 (high 400)).Inv
          ∧ ∃ t, exec (.edge false 3200) (locked 2 2 24 44 (high 400)) = .next t ∧ t.phase = .idle)
      ∧ ((locked 10 2 200 220 (low 400)).Inv
          ∧ ∃ t, exec (.edge true 400) (locked 10 2 200 220 (low 400)) = .next t ∧ t.phase = .ready)
      ∧ (framed.Inv ∧ ∃ t, exec .decode framed = .next t ∧ t.phase = .idle)
      ∧ (∃ t, exec .syncReset framed = .next t ∧ t.phase = .idle) :=
  ⟨⟨by decide, _, rfl, by decide⟩, ⟨by decide, _, rfl, by decide⟩, ⟨by decide, _, rfl, by decide⟩,
    ⟨by decide, _, rfl, by decide⟩,
    ⟨by decide +kernel, decodeFrame framed, execDecode_of_enabled (by decide +kernel), by decide +kernel⟩,
    ⟨_, rfl, by decide +kernel⟩⟩

/-- Both ends of every band of R200 lie in their band, as numbers. -/
theorem witness_ClassifierBands :
    (200 < (201#32).toNat ∧ (599#32).toNat < 600) ∧ (600 < (601#32).toNat ∧ (999#32).toNat < 1000)
      ∧ (2750 ≤ (2750#32).toNat ∧ (3650#32).toNat ≤ 3650)
      ∧ (3650 < (3651#32).toNat ∧ 3650 < (4294967295#32).toNat)
      ∧ ((0#32).toNat ≤ 200 ∧ (200#32).toNat ≤ 200 ∧ (600#32).toNat = 600
          ∧ 1000 ≤ (1000#32).toNat ∧ (2749#32).toNat < 2750)
      ∧ (pending []).decodeEnabled = true ∧ framed.decodeEnabled = true :=
  ⟨by decide, by decide, by decide, by decide, by decide, rfl, rfl⟩

theorem witness_SyncResetReturnsToIdle :
    State.reset.bc.toNat = 0 ∧ State.reset.start.val = 0 ∧ State.reset.lbi.val = 0
      ∧ State.reset.ready = false := by decide

theorem witness_SliceEndsAtTheReadyEntry :
    (locked 10 2 200 220 (low 400)).Inv ∧ (locked 10 2 200 220 (low 400)).ready = false
      ∧ ∃ t, exec (.edge true 400) (locked 10 2 200 220 (low 400)) = .next t ∧ t.ready = true :=
  ⟨by decide, rfl, _, rfl, by decide⟩

theorem witness_FrameSliceHas218Entries : framed.Inv ∧ framed.ready = true := by decide +kernel

/-- Another ring that agrees on the slice: the slot after the slice differs. -/
theorem witness_DecodeReadsTheSliceOnly :
    framed.decodeEnabled = true ∧ (framed.ring.write 220 (high 7)).read 220 ≠ framed.ring.read 220
      ∧ ∀ j : Slot, j ∈ framed.slice → (framed.ring.write 220 (high 7)).read j = framed.ring.read j := by
  refine ⟨by decide +kernel, by decide +kernel, fun j hj => ?_⟩
  obtain ⟨k, hk, rfl⟩ := mem_slotRun.mp hj
  have hd : distance framed.start framed.sliceEnd = 218 := by decide +kernel
  refine Memory.read_write_other (by decide +kernel) fun h => ?_
  have hv : ((2 : Slot).val + k) % 1000 = 220 := congrArg Fin.val h
  have h2 : (2 : Slot).val = 2 := rfl
  omega

theorem witness_FindTokenIsLeftmost :
    0 ≤ [Symbol.one, .one, .blockGap].length ∧ findToken [.one, .one, .blockGap] 0 = some 1
      ∧ 3 ≤ [Symbol.one, .one, .blockGap].length ∧ findToken [.one, .one, .blockGap] 3 = none := by
  decide

theorem witness_WordDecodesExactlyItsTriplets :
    decodeWord ((txBits 0x43).flatMap triBitSymbols ++ [.error, .blockGap, .messageGap, .zero, .one, .one])
        = some 0x43
      ∧ decodeWord (List.replicate 29 .one) = none ∧ decodeWord (List.replicate 31 .one) = none := by
  decide +kernel

/-- A segment with a BlockGap that no '1' precedes (V-FRM-11's shape), an empty one, and eleven of them. -/
theorem witness_SplitCutsAtSyncTokens :
    ([[Symbol.zero, .blockGap, .one], []] ≠ []
        ∧ ∀ r ∈ [[Symbol.zero, .blockGap, .one], []], ∀ t : Nat, ¬IsToken r t)
      ∧ List.replicate 11 [Symbol.one] ≠ []
      ∧ ∀ r ∈ List.replicate 11 [Symbol.one], ∀ t : Nat, ¬IsToken r t := by
  refine ⟨⟨by decide, fun r hr t => ?_⟩, by decide, fun r hr t => ?_⟩
  · simp only [List.mem_cons, List.not_mem_nil, or_false] at hr
    obtain rfl | rfl := hr
    · rintro ⟨h, h'⟩
      match t with
      | 0 => exact absurd h (by decide)
      | 1 => exact absurd h (by decide)
      | t + 2 => exact absurd h' (by simp)
    · simp
  · rw [List.eq_of_mem_replicate hr]
    simp

/-- The pulses of P1, each one microsecond longer. -/
theorem witness_CleanTransmissionDecodesToItsBytes :
    ((cleanFramePulses p1).map fun e => { e with dur := e.dur + 1 }) ≠ cleanFramePulses p1
      ∧ ((cleanFramePulses p1).map fun e => { e with dur := e.dur + 1 }).map classify
        = (cleanFramePulses p1).map classify := by decide +kernel

theorem witness_ResolveTrustsAgreementOrTheSurvivor : (0x43 : Byte) ≠ 0xCD := by decide

theorem witness_MergePairsWordsByTheHeuristic :
    (some (1 : Byte) ≠ none ∧ some (2 : Byte) ≠ none ∧ some (1 : Byte) ≠ some 2)
      ∧ ¬(some (1 : Byte) ≠ none ∧ some (1 : Byte) ≠ none ∧ some (1 : Byte) ≠ some 1)
      ∧ ¬((none : Option Byte) ≠ none ∧ some (2 : Byte) ≠ none ∧ none ≠ some (2 : Byte)) := by decide

theorem witness_CodeMapsAndReachableActions :
    Config.default.leadW = .five ∧ (Config.mk .four true).leadW = .four
      ∧ RecognisedAction 7 ∧ (7 : Byte).toNat ≤ 7 ∧ RecognisedAction 15 ∧ ¬RecognisedAction 9 ∧ RecognisedType 8 ∧ ¬RecognisedType 0 := by decide

/-- P1 with LEAD_W = 5 (V-CMD-1's member 251); a CentralUnit frame with member code 0; a Plain one. -/
theorem witness_MemberSubtractsTheOffset :
    (senderType (lead Config.default p1.b0) = .centralUnit ∧ tail Config.default p1.b3 ≠ 0
        ∧ (commandOf Config.default p1).member = 251)
      ∧ (senderType (lead Config.default p1.b0) = .centralUnit ∧ tail Config.default 0x28 = 0)
      ∧ senderType (lead Config.default plain.b0) ≠ .centralUnit := by decide

/-- One frame for each outcome. -/
theorem witness_DecodeReportsTheFirstOutcomeThatApplies :
    ((pending []).decodeEnabled = true ∧ none ∈ (pending []).frameBytes)
      ∧ ((pending (cleanFramePulses untyped)).decodeEnabled = true
          ∧ (pending (cleanFramePulses untyped)).frameBytes = validBytes untyped
          ∧ ¬RecognisedType (lead Config.default untyped.b0))
      ∧ ((pending (cleanFramePulses inactive)).decodeEnabled = true
          ∧ (pending (cleanFramePulses inactive)).frameBytes = validBytes inactive
          ∧ RecognisedType (lead Config.default inactive.b0)
          ∧ ¬RecognisedAction (tail Config.default inactive.b4))
      ∧ (repeated.decodeEnabled = true ∧ repeated.frameBytes = validBytes p1
          ∧ RecognisedType (lead repeated.params p1.b0)
          ∧ RecognisedAction (tail repeated.params p1.b4) ∧ ¬NotSuppressed repeated p1)
      ∧ (framed.decodeEnabled = true ∧ framed.frameBytes = validBytes p1 ∧ Emits framed p1)
      ∧ ∃ t, exec .decode framed = .next t ∧ t.decStatus ≠ framed.decStatus :=
  ⟨by decide +kernel, ⟨rfl, untyped_bytes, by decide⟩, ⟨rfl, inactive_bytes, by decide⟩,
    ⟨rfl, repeated_bytes, by decide⟩, ⟨rfl, framed_bytes, by decide⟩,
    decodeFrame framed, execDecode_of_enabled rfl, by
      rw [decodeFrame_decStatus, framed_outcome]
      decide⟩

theorem witness_DecodeEmitsByThePredicate :
    (framed.decodeEnabled = true ∧ framed.frameBytes = validBytes p1 ∧ Emits framed p1)
      ∧ (repeated.decodeEnabled = true ∧ ∀ f, repeated.frameBytes = validBytes f → ¬Emits repeated f) := by
  refine ⟨⟨rfl, framed_bytes, by decide⟩, rfl, fun f hf => ?_⟩
  have h : validBytes p1 = validBytes f := repeated_bytes.symm.trans hf
  obtain ⟨b0, b1, b2, b3, b4⟩ := f
  simp only [validBytes, List.cons.injEq, Option.some.injEq, and_true] at h
  obtain ⟨rfl, rfl, rfl, rfl, rfl⟩ := h
  decide

/-- P1 decoded, the same frame pending again; and the same for a Plain sender. -/
theorem witness_RepeatsAreSuppressedForCentralUnitOnly (f : FrameBytes) (hf : f = p1 ∨ f = plain) :
    ∃ s t u, exec .decode s = .next t ∧ t.decStatus = DecStatus.emitted.code ∧ u.decodeEnabled = true
      ∧ u.params = s.params ∧ u.frameBytes = s.frameBytes ∧ SameDedup t u
      ∧ (t.cmd.typ = 8 ↔ f = p1) := by
  let s := pending (cleanFramePulses f)
  let c := commandOf Config.default f
  have hb : commandOutcome s s.frameBytes = (.emitted, some c) := by
    obtain rfl | rfl := hf
    · exact framed_outcome
    · show commandOutcome s (pending (cleanFramePulses plain)).frameBytes = _
      rw [plain_bytes]
      decide +kernel
  refine ⟨s, decodeFrame s,
    { s with dedupValid := true, lastCounter := c.counter, lastId0 := c.id0, lastId1 := c.id1, lastId2 := c.id2 },
    execDecode_of_enabled rfl, ?_, rfl, rfl, rfl, ?_, ?_⟩
  · simp [hb]
  · simp [SameDedup, decodeFrame_dedupValid, decodeFrame_lastCounter, decodeFrame_lastId0,
      decodeFrame_lastId1, decodeFrame_lastId2, hb]
  · rw [decodeFrame_cmd, hb]
    obtain rfl | rfl := hf <;> decide

theorem witness_DecodeConsumesThePendingFrame :
    framed.decodeEnabled = true ∧ (pending []).decodeEnabled = true := by decide +kernel

theorem witness_CmdAcceptClearsCmdValidOnly :
    { framed with cmdValid := true }.ready = true ∧ framed.cmdValid = false := by decide +kernel

theorem witness_IdleChangesNothing :
    (Instr.reserved111 = .idle ∨ Instr.reserved111 = .reserved110 ∨ Instr.reserved111 = .reserved111)
      ∧ framed.decodeEnabled = true := by decide +kernel

/-- One transaction for each change of each flag. -/
theorem witness_FlagsChangeOnlyAsListed :
    (∃ t, exec (.edge true 400) (locked 10 2 200 220 (low 400)) = .next t ∧ t.ready = true)
      ∧ (locked 10 2 200 220 (low 400)).bc.toNat ≤ 10
      ∧ (∃ t, exec .syncReset framed = .next t ∧ t.ready = false)
      ∧ (∃ t, exec .decode framed = .next t ∧ t.cmdValid = true ∧ t.dedupValid = true)
      ∧ (∃ t, exec .cmdAccept { State.reset with cmdValid := true } = .next t ∧ t.cmdValid = false)
      ∧ (∃ t, exec .reset repeated = .next t ∧ t.dedupValid = false)
      ∧ (∃ t, exec .decode { pending [] with shifted := true } = .next t ∧ t.shifted = false)
      ∧ (∃ t, exec .decode (pending ((cleanFramePulses p1).drop 22)) = .next t ∧ t.shifted = true) :=
  ⟨⟨_, rfl, by decide⟩, by decide, ⟨_, rfl, rfl⟩,
    ⟨decodeFrame framed, execDecode_of_enabled rfl,
      by simp [decodeFrame_cmdValid, decodeFrame_dedupValid, framed_outcome]⟩,
    ⟨_, rfl, rfl⟩, ⟨_, rfl, rfl⟩,
    ⟨decodeFrame { pending [] with shifted := true }, execDecode_of_enabled rfl, by decide +kernel⟩,
    ⟨decodeFrame (pending ((cleanFramePulses p1).drop 22)), execDecode_of_enabled rfl, by decide +kernel⟩⟩

/-- While a Command waits: CMD_ACCEPT, and an EDGE. With none: the DECODE that emits. -/
theorem witness_PendingCommandIsNeverOverwritten :
    (∃ t, exec .cmdAccept { State.reset with cmdValid := true } = .next t)
      ∧ (∃ t, exec (.edge true 400) { State.reset with cmdValid := true } = .next t)
      ∧ Instr.cmdAccept ≠ .reset
      ∧ ∃ t, exec .decode framed = .next t ∧ t.cmd ≠ framed.cmd :=
  ⟨⟨_, rfl⟩, ⟨_, rfl⟩, by decide, decodeFrame framed, execDecode_of_enabled rfl, by
    rw [decodeFrame_cmd, framed_outcome]
    decide⟩

theorem witness_DedupStateWrittenOnlyByAnEmit :
    (∃ t, exec .decode framed = .next t ∧ t.decStatus = DecStatus.emitted.code ∧ ¬SameDedup framed t)
      ∧ (∃ t, exec .decode repeated = .next t ∧ t.decStatus ≠ DecStatus.emitted.code)
      ∧ ∃ t, exec .reset repeated = .next t ∧ ¬SameDedup repeated t :=
  ⟨⟨decodeFrame framed, execDecode_of_enabled rfl, by simp [framed_outcome], fun h => by
      have hv := h.1
      rw [decodeFrame_dedupValid, framed_outcome] at hv
      exact absurd hv (by decide)⟩,
    ⟨decodeFrame repeated, execDecode_of_enabled rfl, by simp [repeated_outcome]⟩,
    ⟨_, rfl, by decide⟩⟩

theorem witness_DecodeConditionsAreVisible :
    framed.decodeEnabled = true
      ∧ ((pending []).decodeEnabled = true
          ∧ Condition.wordCorruption 9 ∈ conditionsOf .decode (pending [])
          ∧ Condition.irreconcilableByte 4 ∈ conditionsOf .decode (pending []))
      ∧ ((pending (cleanFramePulses untyped)).decodeEnabled = true
          ∧ Condition.unrecognizedField ∈ conditionsOf .decode (pending (cleanFramePulses untyped)))
      ∧ (repeated.decodeEnabled = true
          ∧ Condition.repeatSuppressed ∈ conditionsOf .decode repeated) := by
  refine ⟨rfl, ⟨rfl, by decide +kernel, by decide +kernel⟩, ⟨rfl, ?_⟩, rfl, ?_⟩
  · simp [conditionsOf, decodeConditions, untyped_enabled, untyped_outcome, outcomeConditions]
  · simp [conditionsOf, decodeConditions, repeated_enabled, repeated_outcome, outcomeConditions]

/-- A Ready frame, an EDGE, a CMD_ACCEPT and an IDLE still to come. -/
theorem witness_EnabledDecodeIsEventuallyTaken :
    { framed with trace := [0x300000190#36, 0x600000000#36, 0#36] }.decodeEnabled = true
      ∧ ∀ w ∈ [0x300000190#36, 0x600000000#36, 0#36],
          (Sys2Proof.decode w).presentable = true ∧ Sys2Proof.decode w ≠ .syncReset
            ∧ Sys2Proof.decode w ≠ .reset :=
  ⟨by decide +kernel, by
    intro w hw
    simp only [List.mem_cons, List.not_mem_nil, or_false] at hw
    obtain rfl | rfl | rfl := hw <;> decide⟩

theorem witness_DetectorInvariantIsKeptByEveryStep :
    ((accumulating 9 8).withFetchWord 40 0x200000C80).Inv
      ∧ ∃ t, step ((accumulating 9 8).withFetchWord 40 0x200000C80) = .next t ∧ t.bc.toNat = 10 :=
  ⟨by decide, _, rfl, by decide⟩

/-- RESET in a state with no legal count or code, then two steps, with the other value of each parameter. -/
theorem witness_DetectorInvariantHoldsInEveryReachableState :
    ∃ t : State, State.LaunchedFrom
        { State.reset with
          bc := 13, decStatus := 7, params := ⟨.four, true⟩, trace := [0x300000190, 0x200000C80] } t
      ∧ t.bc.toNat = 1 :=
  ⟨_, ⟨_, 2, rfl, rfl⟩, by decide⟩

theorem witness_OutputWordsViewTheRegisters : State.reset.Launched := launched_reset

theorem witness_OutputCoherenceIsKeptByEveryStep :
    framed.Coherent ∧ ∃ t, step framed = .next t ∧ t.decStatus = DecStatus.emitted.code :=
  ⟨by decide, decodeFrame framed,
    (show step framed = execDecode framed from rfl).trans (execDecode_of_enabled rfl),
    by simp [framed_outcome]⟩

/-- P1 presented from the reset state, and near the top of the ring. -/
theorem witness_CleanTransmissionReachesReady :
    State.reset.ring.wf = true ∧ State.reset.ready = false ∧ State.reset.bc.toNat = 0
      ∧ { State.reset with wr := 900, trace := (frameOps p1).map Sys2Proof.encode }.trace
        = (frameOps p1).map Sys2Proof.encode ++ [] := by decide +kernel

/-- P1 is emitted from the reset state; a frame of unknown type or action is not, nor P1 again. -/
theorem witness_CleanTransmissionIsDecodedEndToEnd :
    State.reset.ring.wf = true ∧ State.reset.ready = false ∧ State.reset.bc.toNat = 0
      ∧ State.reset.cmdValid = false ∧ Emits State.reset p1 ∧ ¬Emits State.reset untyped
      ∧ ¬RecognisedType (lead Config.default untyped.b0)
      ∧ RecognisedType (lead Config.default inactive.b0)
      ∧ ¬RecognisedAction (tail Config.default inactive.b4)
      ∧ ¬NotSuppressed { State.reset with dedupValid := true, lastCounter := 5, lastId0 := 0x43,
                                          lastId1 := 0xCD, lastId2 := 0xEF } p1 := by decide

end Sys2Proof.Tests
end

section
/-! PROOFS. The statements of the family 10_state.md: the detector's invariant, the block counter, the
phase, the frame of EDGE and the flags, each from the lemmas that say once what a transaction can do. -/

namespace Sys2Proof.Machine

section Detector

/-- A cleared detector beside a ring in canonical form meets the invariant. -/
theorem inv_of_cleared {s : State} (hwf : s.ring.wf = true) (hb : s.bc = 0) (hs : s.start = 0)
    (hl : s.lbi = 0) (hr : s.ready = false) : s.Inv := by
  simp [State.Inv, hwf, hb, hs, hl, hr]

/-- The first block: one block accepted, `LBI = START`. -/
theorem inv_firstBlock {s : State} (c : Slot) (hwf : s.ring.wf = true) (hr : s.ready = false) :
    (s.firstBlock c).Inv := by
  simp [State.Inv, hwf, hr]

/-- `LBI` goes 22 slots on, from one block to the next: 21 to the sync low pulse (R173) and one past it. -/
theorem next_val_of_distance {a c : Slot} (hd : distance a c = 21) :
    (next c).val = (a.val + 22) % 1000 := by
  rw [distance_val] at hd
  rw [next_val]
  omega

/-- One more block: the count and `LBI` move on together (I3). -/
theorem inv_acceptBlock {s : State} {c : Slot} (h : s.Inv) (hr : s.ready = false)
    (h1 : 1 ≤ s.bc.toNat) (h9 : s.bc.toNat ≤ 9) (hd : distance s.lbi c = 21) :
    (s.acceptBlock c).Inv := by
  obtain ⟨hwf, -, -, hlbi, -⟩ := h
  have hbc : (s.acceptBlock c).bc.toNat = s.bc.toNat + 1 := blockCount_succ h9
  have hnext : (s.acceptBlock c).lbi.val = (s.lbi.val + 22) % 1000 := next_val_of_distance hd
  refine ⟨hwf, fun hready => ?_, fun h0 => ?_, fun _ => ?_, ?_⟩
  · exact absurd (hr.symm.trans hready) Bool.false_ne_true
  · omega
  · have := hlbi h1
    rw [hnext, hbc, State.acceptBlock_start]
    omega
  · omega

/-- SyncStep keeps the invariant while no frame is pending, the only time it runs (R145). -/
theorem syncStep_keeps_inv {s : State} (c : Slot) (h : s.Inv) (hr : s.ready = false) :
    (syncStep c s).Inv := by
  obtain ⟨hwf, hready, hidle, hlbi, hle⟩ := h
  obtain he | ⟨-, -, he⟩ | ⟨h1, h9, -, hd, he⟩ | ⟨-, -, -, -, -, he⟩ | ⟨-, -, -, -, -, he⟩
    | ⟨h10, -, -, he⟩ | ⟨h11, -⟩ := syncStep_cases c s
  · rw [he]
    exact ⟨hwf, hready, hidle, hlbi, hle⟩
  · exact he ▸ inv_firstBlock c hwf hr
  · exact he ▸ inv_acceptBlock ⟨hwf, hready, hidle, hlbi, hle⟩ hr h1 h9 hd
  · exact he ▸ inv_of_cleared hwf rfl rfl rfl hr
  · exact he ▸ inv_firstBlock c hwf hr
  · exact he ▸ ⟨hwf, fun _ => h10, hidle, hlbi, hle⟩
  · omega

/-- Every transaction keeps the invariant. -/
theorem exec_keeps_inv {i : Instr} {s t : State} (h : s.Inv) (he : exec i s = .next t) : t.Inv := by
  obtain ⟨hwf, hdet⟩ := h
  obtain ⟨rfl, -⟩ | ⟨_, _, -, -, rfl⟩ | ⟨_, _, -, -, -, rfl⟩ | ⟨_, _, -, hr, -, rfl⟩ | ⟨-, rfl⟩
    | ⟨-, rfl⟩ | ⟨-, rfl⟩ | ⟨-, -, rfl⟩ := exec_next_cases he
  · exact ⟨hwf, hdet⟩
  · exact ⟨hwf, hdet⟩
  · exact ⟨Memory.wf_writeDur hwf, hdet⟩
  · exact syncStep_keeps_inv s.wr ⟨Memory.wf_write hwf, hdet⟩ hr
  · exact inv_of_cleared hwf rfl rfl rfl rfl
  · exact ⟨hwf, hdet⟩
  · exact inv_of_cleared rfl rfl rfl rfl rfl
  · exact inv_of_cleared (by simpa using hwf) (by simp) (by simp) (by simp) (by simp)

/-- What every transaction keeps, and taking a word off the trace does not touch, every step keeps. -/
theorem step_keeps_of_exec {P : State → Prop} (htrace : ∀ s ws, P s → P { s with trace := ws })
    (hexec : ∀ i s t, P s → exec i s = .next t → P t) {s t : State} (hs : P s)
    (h : step s = .next t) : P t := by
  obtain ⟨i, rest, he⟩ := step_eq_exec s
  exact hexec i _ t (htrace s rest hs) (he ▸ h)

theorem step_keeps_inv {s t : State} (hs : s.Inv) (h : step s = .next t) : t.Inv :=
  step_keeps_of_exec (P := State.Inv) (fun _ _ hi => hi) (fun _ _ _ => exec_keeps_inv) hs h

/-- Every state of a run that began with RESET meets the invariant. -/
theorem inv_of_launchedFrom {before t : State} (h : before.LaunchedFrom t) : t.Inv :=
  launchedFrom_keeps h (inv_of_cleared rfl rfl rfl rfl rfl) (fun _ _ => step_keeps_inv)

end Detector

/-- Settles O53: the invariant is kept by every transaction, and the fetch changes the trace alone. -/
theorem detectorInvariantIsKeptByEveryStep : Obligations.DetectorInvariantIsKeptByEveryStep := by
  unfold Obligations.DetectorInvariantIsKeptByEveryStep
  exact fun _ _ => step_keeps_inv

section BlockCount

/-- What SyncStep does to a legal block count. -/
theorem syncStep_bc_cases (c : Slot) {s : State} (h : s.bc.toNat ≤ 10) :
    (syncStep c s).bc = s.bc
      ∨ (syncStep c s).bc.toNat = 0
      ∨ (s.bc.toNat ≤ 9 ∧ (syncStep c s).bc.toNat = s.bc.toNat + 1)
      ∨ ((syncStep c s).bc.toNat = 1 ∧ s.params.syncRestart = true) := by
  obtain he | ⟨h0, -, he⟩ | ⟨-, h9, -, -, he⟩ | ⟨-, -, -, -, -, he⟩ | ⟨-, -, -, -, hp, he⟩
    | ⟨-, -, -, he⟩ | ⟨h11, -⟩ := syncStep_cases c s
  · exact .inl (by rw [he])
  · exact .inr (.inr (.inl ⟨by omega, by simp [he, h0]⟩))
  · exact .inr (.inr (.inl ⟨h9, by rw [he]; exact blockCount_succ h9⟩))
  · exact .inr (.inl (by rw [he]; rfl))
  · exact .inr (.inr (.inr ⟨by rw [he]; rfl, hp⟩))
  · exact .inl (by rw [he]; rfl)
  · omega

/-- What a transaction does to a legal block count: only an EDGE counts. -/
theorem exec_bc_cases {i : Instr} {s t : State} (h : s.bc.toNat ≤ 10) (he : exec i s = .next t) :
    t.bc = s.bc
      ∨ t.bc.toNat = 0
      ∨ ((∃ lvl dur, i = .edge lvl dur)
          ∧ ((s.bc.toNat ≤ 9 ∧ t.bc.toNat = s.bc.toNat + 1)
            ∨ (t.bc.toNat = 1 ∧ s.params.syncRestart = true))) := by
  obtain ⟨rfl, -⟩ | ⟨_, _, -, -, rfl⟩ | ⟨_, _, -, -, -, rfl⟩ | ⟨lvl, dur, hi, -, -, rfl⟩ | ⟨-, rfl⟩
    | ⟨-, rfl⟩ | ⟨-, rfl⟩ | ⟨-, -, rfl⟩ := exec_next_cases he
  · exact .inl rfl
  · exact .inl rfl
  · exact .inl rfl
  · obtain hb | hb | hb | hb := syncStep_bc_cases s.wr (s := s.append ⟨dur, lvl⟩) h
    · exact .inl hb
    · exact .inr (.inl hb)
    · exact .inr (.inr ⟨⟨lvl, dur, hi⟩, .inl hb⟩)
    · exact .inr (.inr ⟨⟨lvl, dur, hi⟩, .inr hb⟩)
  · exact .inr (.inl rfl)
  · exact .inl rfl
  · exact .inr (.inl rfl)
  · exact .inr (.inl (by simp))

end BlockCount

/-- Settles O20: the bound in a run is the invariant's, and the step is `exec_bc_cases`. -/
theorem blockCountCountsUpOrClears : Obligations.BlockCountCountsUpOrClears := by
  unfold Obligations.BlockCountCountsUpOrClears
  refine ⟨rfl, fun s ⟨before, hrun⟩ => ?_, fun i s t hle he => ?_⟩
  · obtain ⟨-, -, -, -, hbc⟩ := inv_of_launchedFrom hrun
    exact hbc
  · obtain hb | hb | ⟨hedge, ⟨h9, hb⟩ | ⟨hb, hp⟩⟩ := exec_bc_cases hle he
    · exact ⟨hb ▸ hle, fun hne => absurd hb hne, fun hlt => absurd hlt (by simp [hb])⟩
    · exact ⟨by omega, fun _ => .inl hb, fun hlt => by omega⟩
    · exact ⟨by omega, fun _ => .inr (.inl hb), fun _ => hedge⟩
    · exact ⟨by omega, fun _ => .inr (.inr ⟨hb, hp⟩), fun _ => hedge⟩

section Phase

theorem phase_of_ready {s : State} (hr : s.ready = true) : s.phase = .ready := by
  simp [State.phase, hr]

theorem phase_of_idle {s : State} (hr : s.ready = false) (h0 : s.bc.toNat = 0) :
    s.phase = .idle := by
  simp [State.phase, hr, h0]

theorem phase_of_accumulating {s : State} (hr : s.ready = false) (h1 : 1 ≤ s.bc.toNat)
    (h9 : s.bc.toNat ≤ 9) : s.phase = .accumulating := by
  have h0 : s.bc.toNat ≠ 0 := by omega
  simp only [State.phase, hr, h0, h9, if_true, if_false, Bool.false_eq_true]

theorem phase_of_armed {s : State} (hr : s.ready = false) (h10 : s.bc.toNat = 10) :
    s.phase = .armed := by
  simp [State.phase, hr, h10]

end Phase

/-- Settles O21: a state that meets the invariant is in one of the table's four rows, and each row fixes
both sides of every equivalence. -/
theorem phaseIsAFunctionOfCountAndReady : Obligations.PhaseIsAFunctionOfCountAndReady := by
  unfold Obligations.PhaseIsAFunctionOfCountAndReady
  rintro s ⟨-, hready, -, -, hle⟩
  cases hr : s.ready with
  | true => simp [phase_of_ready hr, hready hr]
  | false =>
    obtain h0 | ⟨h1, h9⟩ | h10 :
        s.bc.toNat = 0 ∨ (1 ≤ s.bc.toNat ∧ s.bc.toNat ≤ 9) ∨ s.bc.toNat = 10 := by omega
    · simp [phase_of_idle hr h0, h0]
    · rw [phase_of_accumulating hr h1 h9]
      have h0 : s.bc.toNat ≠ 0 := by omega
      have h10 : s.bc.toNat ≠ 10 := by omega
      simp [h0, h10, h1, h9]
    · simp [phase_of_armed hr h10, h10]

section EdgeFrame

variable {s : State}

theorem edgeStoreSlot_of_glitch {dur : Dur} (hr : s.ready = false) (hd : dur.toNat ≤ 50) :
    edgeStoreSlot dur s = some (previous s.wr) := by
  simp [edgeStoreSlot, hr, Sys2Proof.glitch, hd]

theorem edgeStoreSlot_of_append {dur : Dur} (hr : s.ready = false) (hd : 50 < dur.toNat) :
    edgeStoreSlot dur s = some s.wr := by
  have : ¬dur.toNat ≤ 50 := by omega
  simp [edgeStoreSlot, hr, Sys2Proof.glitch, this]

/-- A fold leaves every entry but the most recent one. -/
theorem fold_read_other (dur : Dur) {j : Slot} (hwf : s.ring.wf = true) (hj : j ≠ previous s.wr) :
    (s.fold dur).ring.read j = s.ring.read j :=
  Memory.read_write_other hwf hj

/-- An append leaves every entry but the one at the cursor. -/
theorem append_read_other (e : Entry) {j : Slot} (hwf : s.ring.wf = true) (hj : j ≠ s.wr) :
    (s.append e).ring.read j = s.ring.read j :=
  Memory.read_write_other hwf hj

end EdgeFrame

section Output

/-- Two states agree on everything outside the ring and the detector. -/
abbrev SameOutput (s t : State) : Prop :=
  SameCommand s t ∧ SameDedup s t ∧ SameStatus s t ∧ SameOwn s t

theorem sameOutput_refl (s : State) : SameOutput s s :=
  ⟨⟨rfl, rfl⟩, ⟨rfl, rfl, rfl, rfl, rfl⟩, ⟨rfl, rfl, rfl, rfl⟩, rfl, rfl⟩

theorem sameOutput_fold (s : State) (dur : Dur) : SameOutput s (s.fold dur) := sameOutput_refl s

theorem sameOutput_clear (s : State) : SameOutput s s.clearSync.clearReady := sameOutput_refl s

/-- SyncStep writes the detector alone (R171). -/
theorem sameOutput_syncStep (c : Slot) (s : State) : SameOutput s (syncStep c s) := by
  simp [SameOutput, SameCommand, SameDedup, SameStatus, SameOwn]

theorem sameOutput_append (s : State) (c : Slot) (e : Entry) :
    SameOutput s (syncStep c (s.append e)) := sameOutput_syncStep c (s.append e)

end Output

/-- Settles O13: in each of EDGE's three cases the slot stored to is known, and the rest is untouched. -/
theorem edgeFrame : Obligations.EdgeFrame := by
  unfold Obligations.EdgeFrame
  intro lvl dur s hwf
  obtain ⟨-, he⟩ | ⟨hr, hd, he⟩ | ⟨hr, hd, he⟩ := execEdge_cases lvl dur s
  · exact ⟨s, he, fun _ _ _ _ => rfl, fun _ _ => rfl, sameOutput_refl s⟩
  · rw [edgeStoreSlot_of_glitch hr hd]
    exact ⟨_, he, fun a ha j hj => fold_read_other dur hwf (Option.some.inj ha ▸ hj), nofun,
      sameOutput_fold s dur⟩
  · rw [edgeStoreSlot_of_append hr hd]
    refine ⟨_, he, fun a ha j hj => ?_, nofun, sameOutput_append s s.wr _⟩
    rw [syncStep_ring]
    exact append_read_other _ hwf (Option.some.inj ha ▸ hj)

section Flags

/-- What a transaction does outside the ring and the detector: nothing but CMD_ACCEPT's clear of
CMD_VALID, unless it is RESET or DECODE. -/
theorem exec_output_cases {i : Instr} {s t : State} (h : exec i s = .next t) :
    SameOutput s t
    ∨ (i = .cmdAccept ∧ t = { s with cmdValid := false })
    ∨ (i = .reset ∧ t = { State.reset with params := s.params, trace := s.trace })
    ∨ (i = .decode ∧ s.decodeEnabled = true ∧ t = decodeFrame s) := by
  obtain ⟨rfl, -⟩ | ⟨_, _, -, -, rfl⟩ | ⟨_, dur, -, -, -, rfl⟩ | ⟨_, _, -, -, -, rfl⟩ | ⟨-, rfl⟩
    | haccept | hreset | hdecode := exec_next_cases h
  · exact .inl (sameOutput_refl _)
  · exact .inl (sameOutput_refl _)
  · exact .inl (sameOutput_fold s dur)
  · exact .inl (sameOutput_append s s.wr _)
  · exact .inl (sameOutput_clear s)
  · exact .inr (.inl haccept)
  · exact .inr (.inr (.inl hreset))
  · exact .inr (.inr (.inr hdecode))

theorem exec_params {i : Instr} {s t : State} (h : exec i s = .next t) : t.params = s.params := by
  obtain ⟨-, -, -, hp, -⟩ | ⟨-, rfl⟩ | ⟨-, rfl⟩ | ⟨-, -, rfl⟩ := exec_output_cases h
  · exact hp
  · rfl
  · rfl
  · exact decodeFrame_params s

/-- DEC_STATUS is written with the codes of R328 only. -/
theorem exec_decStatus_le {i : Instr} {s t : State} (hs : s.decStatus.toNat ≤ 5)
    (h : exec i s = .next t) : t.decStatus.toNat ≤ 5 := by
  obtain ⟨-, -, ⟨hd, -⟩, -⟩ | ⟨-, rfl⟩ | ⟨-, rfl⟩ | ⟨-, -, rfl⟩ := exec_output_cases h
  · exact hd ▸ hs
  · exact hs
  · exact Nat.zero_le 5
  · rw [decodeFrame_decStatus]
    exact DecStatus.code_le _

/-- SyncStep declares Ready only from the Armed phase, on a high entry (R177). -/
theorem syncStep_sets_ready {c : Slot} {s : State} (hle : s.bc.toNat ≤ 10) (hr : s.ready = false)
    (h : (syncStep c s).ready = true) : s.bc.toNat = 10 ∧ (s.ring.read c).lvl = true := by
  obtain he | ⟨-, -, he⟩ | ⟨-, -, -, -, he⟩ | ⟨-, -, -, -, -, he⟩ | ⟨-, -, -, -, -, he⟩
    | ⟨h10, -, hl, -⟩ | ⟨h11, -⟩ := syncStep_cases c s
  · simp [he, hr] at h
  · simp [he, hr] at h
  · simp [he, hr] at h
  · simp [he, hr] at h
  · simp [he, hr] at h
  · exact ⟨h10, hl⟩
  · omega

/-- READY is set by a high EDGE in the Armed phase. -/
theorem exec_sets_ready {i : Instr} {s t : State} (h : exec i s = .next t) (hle : s.bc.toNat ≤ 10)
    (hs : s.ready = false) (ht : t.ready = true) :
    (∃ dur, i = .edge true dur) ∧ s.bc.toNat = 10 := by
  obtain ⟨rfl, -⟩ | ⟨_, _, -, -, rfl⟩ | ⟨_, _, -, -, -, rfl⟩ | ⟨lvl, dur, hi, -, hd, rfl⟩ | ⟨-, rfl⟩
    | ⟨-, rfl⟩ | ⟨-, rfl⟩ | ⟨-, -, rfl⟩ := exec_next_cases h
  · simp [hs] at ht
  · simp [hs] at ht
  · simp [hs] at ht
  · obtain ⟨h10, hl⟩ := syncStep_sets_ready (s := s.append ⟨dur, lvl⟩) hle hs ht
    rw [append_read_long hd] at hl
    exact ⟨⟨dur, hl ▸ hi⟩, h10⟩
  · simp at ht
  · simp [hs] at ht
  · simp [State.reset] at ht
  · simp at ht

/-- READY is cleared by DECODE, SYNC_RESET and RESET: while it is set an EDGE is dropped (R145). -/
theorem exec_clears_ready {i : Instr} {s t : State} (h : exec i s = .next t)
    (hs : s.ready = true) (ht : t.ready = false) : i = .decode ∨ i = .syncReset ∨ i = .reset := by
  obtain ⟨rfl, -⟩ | ⟨_, _, -, -, rfl⟩ | ⟨_, _, -, hr, -⟩ | ⟨_, _, -, hr, -⟩ | ⟨hi, -⟩
    | ⟨-, rfl⟩ | ⟨hi, -⟩ | ⟨hi, -⟩ := exec_next_cases h
  · simp [hs] at ht
  · simp [hs] at ht
  · simp [hs] at hr
  · simp [hs] at hr
  · exact .inr (.inl hi)
  · simp [hs] at ht
  · exact .inr (.inr hi)
  · exact .inl hi

/-- DECODE either emits a Command, which sets both valid flags, or leaves them. -/
theorem decodeFrame_flags (s : State) :
    ((decodeFrame s).decStatus = DecStatus.emitted.code
      ∧ (decodeFrame s).cmdValid = true ∧ (decodeFrame s).dedupValid = true)
    ∨ ((decodeFrame s).cmdValid = s.cmdValid ∧ (decodeFrame s).dedupValid = s.dedupValid) := by
  rw [decodeFrame_decStatus, decodeFrame_cmdValid, decodeFrame_dedupValid]
  cases hc : (commandOutcome s s.frameBytes).2 with
  | none => exact .inr ⟨rfl, rfl⟩
  | some c =>
    have hem := (commandOutcome_emitted_iff s s.frameBytes).mpr (by simp [hc])
    exact .inl ⟨by rw [hem], rfl, rfl⟩

/-- CMD_VALID and DEDUP_VALID are set by a DECODE that emits. -/
theorem exec_sets_valid {i : Instr} {s t : State} (h : exec i s = .next t)
    (hset : (s.cmdValid = false ∧ t.cmdValid = true)
      ∨ (s.dedupValid = false ∧ t.dedupValid = true)) :
    i = .decode ∧ t.decStatus = DecStatus.emitted.code := by
  obtain ⟨⟨hc, -⟩, ⟨hd, -⟩, -⟩ | ⟨-, rfl⟩ | ⟨-, rfl⟩ | ⟨hi, -, rfl⟩ := exec_output_cases h
  · simp [hc, hd] at hset
  · simp at hset
  · simp [State.reset] at hset
  · obtain ⟨hem, -⟩ | ⟨hc, hd⟩ := decodeFrame_flags s
    · exact ⟨hi, hem⟩
    · simp [hc, hd] at hset

/-- CMD_VALID is cleared by CMD_ACCEPT and RESET. -/
theorem exec_clears_cmdValid {i : Instr} {s t : State} (h : exec i s = .next t)
    (hs : s.cmdValid = true) (ht : t.cmdValid = false) : i = .cmdAccept ∨ i = .reset := by
  obtain ⟨⟨hc, -⟩, -⟩ | ⟨hi, -⟩ | ⟨hi, -⟩ | ⟨-, hen, -⟩ := exec_output_cases h
  · simp [hc, hs] at ht
  · exact .inl hi
  · exact .inr hi
  · simp [decodeEnabled_iff, hs] at hen

/-- DEDUP_VALID is cleared by RESET alone. -/
theorem exec_clears_dedupValid {i : Instr} {s t : State} (h : exec i s = .next t)
    (hs : s.dedupValid = true) (ht : t.dedupValid = false) : i = .reset := by
  obtain ⟨-, ⟨hd, -⟩, -⟩ | ⟨-, rfl⟩ | ⟨hi, -⟩ | ⟨-, -, rfl⟩ := exec_output_cases h
  · simp [hd, hs] at ht
  · simp [hs] at ht
  · exact hi
  · obtain ⟨-, -, hd⟩ | ⟨-, hd⟩ := decodeFrame_flags s
    · simp [hd] at ht
    · simp [hd, hs] at ht

/-- SHIFTED changes by RESET, or by a DECODE to the alignment heuristic's answer (R329). -/
theorem exec_shifted_cases {i : Instr} {s t : State} (h : exec i s = .next t) :
    t.shifted = s.shifted
    ∨ (i = .reset ∧ t.shifted = false)
    ∨ (i = .decode ∧ t.shifted = alignmentShifted (split s.triBitString)) := by
  obtain ⟨-, -, ⟨-, -, -, hs⟩, -⟩ | ⟨-, rfl⟩ | ⟨hi, rfl⟩ | ⟨hi, -, rfl⟩ := exec_output_cases h
  · exact .inl hs
  · exact .inl rfl
  · exact .inr (.inl ⟨hi, rfl⟩)
  · exact .inr (.inr ⟨hi, (decodeFrame_shifted s).trans (merge_snd _)⟩)

end Flags

/-- Settles O45: a lemma for each flag's setting and clearing. -/
theorem flagsChangeOnlyAsListed : Obligations.FlagsChangeOnlyAsListed := by
  unfold Obligations.FlagsChangeOnlyAsListed
  refine ⟨⟨rfl, rfl, rfl, rfl⟩, fun i s t h => ⟨exec_sets_ready h, exec_clears_ready h,
    fun hs ht => exec_sets_valid h (.inl ⟨hs, ht⟩), exec_clears_cmdValid h,
    fun hs ht => exec_sets_valid h (.inr ⟨hs, ht⟩), exec_clears_dedupValid h, ?_⟩⟩
  obtain hsh | ⟨hi, hsh⟩ | ⟨hi, hsh⟩ := exec_shifted_cases h
  · simp +contextual [hsh]
  · simp [hi, hsh]
  · exact ⟨fun _ ht => ⟨hi, hsh ▸ ht⟩, fun _ ht => .inl ⟨hi, hsh ▸ ht⟩⟩

/-- Settles O54: the detector's invariant, the codes of DEC_STATUS and the parameters are each kept by
every step of a run that began with RESET. -/
theorem detectorInvariantHoldsInEveryReachableState :
    Obligations.DetectorInvariantHoldsInEveryReachableState := by
  unfold Obligations.DetectorInvariantHoldsInEveryReachableState
  intro before t hrun
  obtain ⟨-, hready, hidle, hlbi, hbc⟩ := inv_of_launchedFrom hrun
  have hstatus : t.decStatus.toNat ≤ 5 :=
    launchedFrom_keeps (P := fun s => s.decStatus.toNat ≤ 5) hrun (Nat.zero_le 5) fun _ _ =>
      step_keeps_of_exec (P := fun s => s.decStatus.toNat ≤ 5) (fun _ _ hs => hs)
        fun _ _ _ => exec_decStatus_le
  have hparams : t.params = before.params :=
    launchedFrom_keeps (P := fun s => s.params = before.params) hrun rfl fun _ _ =>
      step_keeps_of_exec (P := fun s => s.params = before.params) (fun _ _ hs => hs)
        fun _ _ _ hs h => (exec_params h).trans hs
  exact ⟨hready, hidle, hlbi, by omega, by omega, by omega, hbc, hstatus, hparams⟩

end Sys2Proof.Machine
end

section
/-! PROOFS. The statement of the family 20_memory.md: the three ways a ring entry changes. -/

namespace Sys2Proof.Machine

/-- The most recent entry after a fold (R146): the duration added, the level kept. -/
theorem fold_read_previous {s : State} (dur : Dur) (hwf : s.ring.wf = true) :
    (s.fold dur).ring.read (previous s.wr)
      = { dur := (s.ring.read (previous s.wr)).dur + dur
          lvl := (s.ring.read (previous s.wr)).lvl } :=
  Memory.read_write_same hwf

/-- Settles O14: a fold and an append each leave every slot but one, RESET empties the ring, and every
other transaction leaves the ring as it is. -/
theorem ringEntryChangesInThreeWaysOnly : Obligations.RingEntryChangesInThreeWaysOnly := by
  unfold Obligations.RingEntryChangesInThreeWaysOnly
  intro i s t j hwf he hne
  obtain ⟨rfl, -⟩ | ⟨_, _, -, -, rfl⟩ | ⟨lvl, dur, hi, hr, hd, rfl⟩ | ⟨lvl, dur, hi, hr, hd, rfl⟩
    | ⟨-, rfl⟩ | ⟨-, rfl⟩ | ⟨hi, rfl⟩ | ⟨-, -, rfl⟩ := exec_next_cases he
  · exact absurd rfl hne
  · exact absurd rfl hne
  · have hj : j = previous s.wr := by_contra fun hj => hne (fold_read_other dur hwf hj)
    exact .inl ⟨lvl, dur, hi, hr, hd, hj, hj ▸ fold_read_previous dur hwf⟩
  · rw [syncStep_ring] at hne ⊢
    have hj : j = s.wr := by_contra fun hj => hne (append_read_other _ hwf hj)
    exact .inr (.inl ⟨lvl, dur, hi, hr, hd, hj, hj ▸ append_read_self hwf⟩)
  · exact absurd rfl hne
  · exact absurd rfl hne
  · exact .inr (.inr ⟨hi, rfl⟩)
  · exact absurd (by rw [decodeFrame_ring]) hne

end Sys2Proof.Machine
end

section
/-! PROOFS. The statements of the family 30_encoding.md, first part: the coding of transactions, the code
maps, the ports and their output words. -/

namespace Sys2Proof

section Coding

/-- A transaction's word decodes to the transaction: each word is laid out from its fields. -/
@[simp] theorem decode_encode (i : Instr) : decode (encode i) = i := by
  cases i <;> exact decode_txn _ _ _

/-- `op` alone says whether the word is an EDGE, whose operands are the two fields. -/
theorem instrOf_eq_edge_iff (op : BitVec 3) (lvl l : Bool) (dur d : Dur) :
    instrOf op lvl dur = .edge l d ↔ op = 0b001#3 ∧ l = lvl ∧ d = dur := by
  rcases opField_cases op with h | h | h | h | h | h | h | h <;> subst h <;>
    simp [instrOf, eq_comm]

/-- The word of a code and operands: the operands survive for EDGE alone. -/
theorem encode_instrOf (op : BitVec 3) (lvl : Bool) (dur : Dur) :
    encode (instrOf op lvl dur) = if op = 0b001#3 then txn op lvl dur else txn op false 0#32 := by
  rcases opField_cases op with h | h | h | h | h | h | h | h <;> subst h <;> rfl

/-- A word is an EDGE's under the opcode table's mask exactly by its `op` field. -/
theorem and_mask_eq_edge_iff (w : TxnWord) :
    w &&& 0xE00000000#36 = 0x200000000#36 ↔ opField w = 0b001#3 := by
  rw [and_mask]
  constructor
  · intro h
    exact (opField_txn _ _ _).symm.trans (congrArg opField h)
  · intro h
    rw [h]
    rfl

/-- Re-encoding a word clears its ignored bits and no other (R93, R95 (b)). -/
theorem encode_decode (w : TxnWord) :
    encode (decode w) =
      if w &&& 0xE00000000#36 = 0x200000000#36 then w else w &&& 0xE00000000#36 := by
  simp only [decode, encode_instrOf, and_mask_eq_edge_iff, txn_fields]
  rw [and_mask]

/-- Re-encoding a word keeps the bits the opcode table looks at. -/
theorem encode_decode_and_mask (w : TxnWord) :
    encode (decode w) &&& 0xE00000000#36 = w &&& 0xE00000000#36 := by
  rw [encode_decode]
  split
  · rfl
  · rw [BitVec.and_assoc, BitVec.and_self]

/-- Outside EDGE the masked word alone decides the transaction. -/
theorem decode_eq_of_and_mask_eq {w w' : TxnWord}
    (hedge : w &&& 0xE00000000#36 ≠ 0x200000000#36)
    (h : w &&& 0xE00000000#36 = w' &&& 0xE00000000#36) : decode w = decode w' := by
  have henc : encode (decode w) = encode (decode w') := by
    rw [encode_decode, encode_decode, if_neg hedge, if_neg (h ▸ hedge), h]
  simpa using congrArg decode henc

/-- Every transaction's word is admitted by the row of its mnemonic and by no other. -/
theorem opcodeRow_admits_encode (i : Instr) : Laws.OpcodeRow.Statement i := by
  cases i with
  | idle => exact Laws.OpcodeRow.idle
  | edge lvl dur => exact Laws.OpcodeRow.edge lvl dur
  | syncReset => exact Laws.OpcodeRow.syncReset
  | cmdAccept => exact Laws.OpcodeRow.cmdAccept
  | reset => exact Laws.OpcodeRow.reset
  | decode => exact Laws.OpcodeRow.decode
  | reserved110 => exact Laws.OpcodeRow.reserved110
  | reserved111 => exact Laws.OpcodeRow.reserved111

/-- Every row looks at the three bits of `op`. -/
theorem opcodeRow_mask {r : OpcodeRow} (h : r ∈ opcodeTable) : r.mask = 0xE00000000#36 := by
  revert r
  decide

theorem opcodeRow_admits_iff {r : OpcodeRow} (h : r ∈ opcodeTable) (w : TxnWord) :
    r.admits w = true ↔ w &&& 0xE00000000#36 = r.matchBits := by
  rw [OpcodeRow.admits, opcodeRow_mask h, beq_iff_eq]

end Coding

/-- Settles O1: a transaction's word decodes to it. -/
theorem decodeOfEncodeIsTheTransaction : Obligations.DecodeOfEncodeIsTheTransaction := by
  unfold Obligations.DecodeOfEncodeIsTheTransaction
  exact decode_encode

/-- Settles O2: the word is laid out again from `op` and, for an EDGE, its operands. -/
theorem encodeOfDecodeClearsOnlyIgnoredBits : Obligations.EncodeOfDecodeClearsOnlyIgnoredBits := by
  unfold Obligations.EncodeOfDecodeClearsOnlyIgnoredBits
  exact encode_decode

/-- Settles O3: the re-encoded word is admitted by the row of its mnemonic and by no other, and the word
itself by the same rows. -/
theorem decodeFollowsTheOpcodeTable : Obligations.DecodeFollowsTheOpcodeTable := by
  unfold Obligations.DecodeFollowsTheOpcodeTable
  refine ⟨fun w r hr => ?_, fun w lvl dur h => ?_⟩
  · have hrow := opcodeRow_admits_encode (decode w) r hr
    rw [opcodeRow_admits_iff hr, encode_decode_and_mask] at hrow
    rw [opcodeRow_mask hr, eq_comm (a := (decode w).mnemonic)]
    exact hrow.symm
  · obtain ⟨-, rfl, rfl⟩ := (instrOf_eq_edge_iff _ _ _ _ _).mp h
    exact ⟨rfl, BitVec.extractLsb'_toNat 0 32 w⟩

/-- Settles O4: the decoder is run on each of the eighteen words. -/
theorem specWordsDecodeToTheirLines : Obligations.SpecWordsDecodeToTheirLines := by
  unfold Obligations.SpecWordsDecodeToTheirLines
  decide

end Sys2Proof

namespace Sys2Proof.Machine

section Ports

/-- What a cycle presents may be presented (R94, R95 (c)). -/
theorem presentable_of_mem_transactions {c : PortCycle} {i : Instr} (h : i ∈ c.transactions) :
    i.presentable = true := by
  unfold PortCycle.transactions at h
  split at h
  · rw [List.mem_singleton.mp h]
    rfl
  · split at h
    · rw [List.mem_singleton.mp h]
      rfl
    · obtain h | h | h : i ∈ (if c.sync_reset then [Instr.syncReset] else [])
          ∨ i ∈ (if c.edge_valid then [Instr.edge c.edge_lvl c.edge_dur] else [])
          ∨ i ∈ (if c.cmd_accept then [Instr.cmdAccept] else []) := by
        simpa only [List.mem_append] using h
      all_goals
        obtain ⟨-, rfl⟩ := List.mem_ite_nil_right.mp h |>.imp_right List.mem_singleton.mp
        rfl

/-- A presented cycle's words decode to its transactions. -/
theorem presentCycle_trace_decode (s : State) (c : PortCycle) :
    (s.presentCycle c).trace.map Sys2Proof.decode
      = s.trace.map Sys2Proof.decode ++ c.transactions := by
  have hround : Sys2Proof.decode ∘ Sys2Proof.encode = id := funext decode_encode
  rw [State.presentCycle, List.map_append, List.map_map, hround, List.map_id]

/-- With the trace taken off again, a step is the transaction of the word presented. -/
theorem step_presentNext (s : State) (w : TxnWord) :
    step (s.presentNext w) = exec (Sys2Proof.decode w) s := rfl

end Ports

/-- Settles O50: the transactions of the cycle, in the order their strobes are tested. -/
theorem portCycleOrdersItsStrobes : Obligations.PortCycleOrdersItsStrobes := by
  unfold Obligations.PortCycleOrdersItsStrobes
  refine fun s c => ⟨?_, fun i => presentable_of_mem_transactions⟩
  rw [presentCycle_trace_decode, PortCycle.transactions]
  simp only [Bool.and_eq_true, Bool.not_eq_true', and_assoc, List.append_assoc]

/-- Settles O5: a step is its transaction, and outside EDGE the masked word alone decides it. -/
theorem reservedAndIgnoredEncodings : Obligations.ReservedAndIgnoredEncodings := by
  unfold Obligations.ReservedAndIgnoredEncodings
  refine ⟨fun s => ⟨rfl, rfl, rfl⟩, fun s w w' hedge h => ?_, fun s hen => ?_, fun c i hi => ?_,
    fun w => ?_⟩
  · rw [step_presentNext, step_presentNext, decode_eq_of_and_mask_eq hedge h]
  · exact execDecode_of_not_enabled (Bool.eq_false_iff.mpr (mt decodeEnabled_iff.mp hen))
  · rintro rfl
    exact absurd (presentable_of_mem_transactions hi) (by decide)
  · cases Sys2Proof.decode w <;> simp [Instr.mnemonic]

section OutputWords

/-- The high part of a word, cut out where it begins. -/
theorem extractLsb'_append_high {v w i : Nat} (x : BitVec v) (y : BitVec w) (h : i = w) :
    (x ++ y).extractLsb' i v = x := by
  rw [h, BitVec.extractLsb'_append_eq_left]

/-- One bit above the low part of a word. -/
theorem getLsbD_ofBool_append {w i : Nat} (b : Bool) (y : BitVec w) (h : i = w) :
    (BitVec.ofBool b ++ y).getLsbD i = b := by
  rw [h, BitVec.getLsbD_append, if_neg (Nat.lt_irrefl w), Nat.sub_self, BitVec.getLsbD_ofBool]
  rfl

theorem getLsbD_append_low {v w i : Nat} (x : BitVec v) (y : BitVec w) (h : i < w) :
    (x ++ y).getLsbD i = y.getLsbD i := by
  rw [BitVec.getLsbD_append, if_pos h]

/-- The CMD word shows each field of the command register at its byte (R97). -/
theorem cmdData_fields (s : State) :
    s.cmdData.extractLsb' 56 8 = s.cmd.typ ∧ s.cmdData.extractLsb' 48 8 = s.cmd.id0
      ∧ s.cmdData.extractLsb' 40 8 = s.cmd.id1 ∧ s.cmdData.extractLsb' 32 8 = s.cmd.id2
      ∧ s.cmdData.extractLsb' 24 8 = s.cmd.counter ∧ s.cmdData.extractLsb' 16 8 = s.cmd.member
      ∧ s.cmdData.extractLsb' 8 8 = s.cmd.group ∧ s.cmdData.extractLsb' 0 8 = s.cmd.action := by
  simp (disch := decide) only [State.cmdData, BitVec.extractLsb'_cast, extractLsb'_append_high,
    BitVec.extractLsb'_append_eq_of_add_le, BitVec.extractLsb'_eq_self, and_self]

/-- The STAT word shows each register at its bits (R98). -/
theorem stat_fields (s : State) :
    s.stat.extractLsb' 0 4 = s.bc ∧ s.stat.getLsbD 4 = s.ready
      ∧ s.stat.getLsbD 5 = s.cmdValid ∧ s.stat.getLsbD 6 = s.dedupValid
      ∧ s.stat.getLsbD 7 = s.shifted
      ∧ s.stat.extractLsb' 8 3 = s.decStatus
      ∧ s.stat.extractLsb' 11 5 = s.byteValid ∧ s.stat.extractLsb' 16 10 = s.wordValid := by
  simp (disch := decide) only [State.stat, BitVec.extractLsb'_cast, BitVec.getLsbD_cast,
    extractLsb'_append_high, BitVec.extractLsb'_append_eq_of_add_le, BitVec.extractLsb'_eq_self,
    getLsbD_ofBool_append, getLsbD_append_low, and_self]

end OutputWords

/-- Settles O51: the fields are cut out of the words they are laid out in, and a run from RESET shows
legal codes because its states do. -/
theorem outputWordsViewTheRegisters : Obligations.OutputWordsViewTheRegisters := by
  unfold Obligations.OutputWordsViewTheRegisters
  refine ⟨by decide, by decide, fun s => ⟨⟨rfl, rfl, rfl⟩, cmdData_fields s, stat_fields s, ?_⟩⟩
  rintro ⟨before, hrun⟩
  obtain ⟨hbc, -, -, -, -, hstatus, -⟩ := stat_fields s
  obtain ⟨-, -, -, -, -, -, hcount, hcode, -⟩ :=
    detectorInvariantHoldsInEveryReachableState before s hrun
  rw [hbc, hstatus]
  exact ⟨hcount, hcode⟩

section CodeMaps

/-- The sender-type codes (R107). -/
theorem senderType_iff (x : Byte) :
    (senderType x = .plain ↔ x = 1#8) ∧ (senderType x = .sunSensor ↔ x = 2#8)
      ∧ (senderType x = .centralUnit ↔ x = 8#8)
      ∧ (senderType x = .unrecognized ↔ ¬RecognisedType x) := by
  refine ⟨?_, ?_, senderType_centralUnit_iff x, senderType_unrecognized_iff x⟩ <;>
  · unfold senderType
    repeat' split
    all_goals simp_all

/-- The action codes (R108). -/
theorem actionOf_iff (x : Byte) :
    (actionOf x = .stop ↔ x = 3#8) ∧ (actionOf x = .up ↔ x = 4#8)
      ∧ (actionOf x = .down ↔ x = 5#8) ∧ (actionOf x = .sunDown ↔ x = 6#8)
      ∧ (actionOf x = .sunUp ↔ x = 7#8) ∧ (actionOf x = .sunInst ↔ x = 8#8)
      ∧ (actionOf x = .test ↔ x = 15#8)
      ∧ (actionOf x = .unrecognized ↔ ¬RecognisedAction x) := by
  refine ⟨?_, ?_, ?_, ?_, ?_, ?_, ?_, actionOf_unrecognized_iff x⟩ <;>
  · unfold actionOf
    repeat' split
    all_goals simp_all

/-- The leading field, as a quotient (R271). -/
theorem lead_toNat (p : Config) (b : Byte) :
    (lead p b).toNat = b.toNat / 2 ^ (8 - p.leadW.bits) := by
  rw [lead, BitVec.toNat_ushiftRight, Nat.shiftRight_eq_div_pow]

/-- The trailing field, as a remainder (R271). -/
theorem tail_toNat (p : Config) (b : Byte) :
    (tail p b).toNat = b.toNat % 2 ^ (8 - p.leadW.bits) := by
  rw [tail, BitVec.toNat_ofNat]
  exact Nat.mod_eq_of_lt (Nat.lt_of_le_of_lt (Nat.mod_le _ _) b.isLt)

/-- The leading field has `LEAD_W` bits. -/
theorem lead_lt (p : Config) (b : Byte) : (lead p b).toNat < 2 ^ p.leadW.bits := by
  have hb := b.isLt
  rw [lead_toNat]
  cases p.leadW <;> simp only [LeadWidth.bits] <;> omega

/-- The trailing field has the other `8 - LEAD_W` bits. -/
theorem tail_lt (p : Config) (b : Byte) : (tail p b).toNat < 2 ^ (8 - p.leadW.bits) := by
  rw [tail_toNat]
  exact Nat.mod_lt _ (Nat.two_pow_pos _)

/-- The ranges of the two fields under a given `LEAD_W`. -/
theorem fields_le {p : Config} {w : LeadWidth} (b : Byte) (hw : p.leadW = w) :
    (lead p b).toNat ≤ 2 ^ w.bits - 1 ∧ (tail p b).toNat ≤ 2 ^ (8 - w.bits) - 1 := by
  subst hw
  exact ⟨Nat.le_sub_one_of_lt (lead_lt p b), Nat.le_sub_one_of_lt (tail_lt p b)⟩

/-- A code that fits the trailing field is its own byte's. -/
theorem tail_eq_self {p : Config} {x : Byte} (h : x.toNat < 2 ^ (8 - p.leadW.bits)) :
    tail p x = x := by
  apply BitVec.eq_of_toNat_eq
  rw [tail_toNat, Nat.mod_eq_of_lt h]

/-- A code that fits the leading field is that of the byte which holds it there. -/
theorem lead_shiftLeft {p : Config} {x : Byte} (h : x.toNat < 2 ^ p.leadW.bits) :
    lead p (x <<< (8 - p.leadW.bits)) = x := by
  apply BitVec.eq_of_toNat_eq
  rw [lead_toNat, BitVec.toNat_shiftLeft, Nat.shiftLeft_eq]
  cases hw : p.leadW <;> simp only [hw, LeadWidth.bits] at h ⊢ <;> omega

theorem RecognisedType.toNat_le {x : Byte} (h : RecognisedType x) : x.toNat ≤ 8 := by
  rcases h with rfl | rfl | rfl <;> decide

theorem RecognisedAction.toNat_le {x : Byte} (h : RecognisedAction x) : x.toNat ≤ 15 := by
  rcases h with rfl | rfl | rfl | rfl | rfl | rfl | rfl <;> decide

end CodeMaps

/-- Settles O35: the fields are a quotient and a remainder, so a code that fits one is some byte's. -/
theorem codeMapsAndReachableActions : Obligations.CodeMapsAndReachableActions := by
  unfold Obligations.CodeMapsAndReachableActions
  refine ⟨senderType_iff, actionOf_iff, fun _ b hw => fields_le b hw, fun _ b hw => fields_le b hw,
    fun p b hw => ?_, fun p x hw _ hx => ⟨x, tail_eq_self ?_⟩, fun p x hw hx => ⟨x, tail_eq_self ?_⟩,
    fun p x hx => ⟨_, lead_shiftLeft ?_⟩⟩
  · obtain ⟨-, htail⟩ := fields_le b hw
    obtain ⟨-, -, -, -, -, hsun, htest, -⟩ := actionOf_iff (tail p b)
    rw [ne_eq, ne_eq, hsun, htest]
    exact ⟨fun h => absurd (h ▸ htail) (by decide), fun h => absurd (h ▸ htail) (by decide)⟩
  · rw [hw]
    exact Nat.lt_succ_of_le hx
  · rw [hw]
    exact Nat.lt_succ_of_le hx.toNat_le
  · have := hx.toNat_le
    cases p.leadW <;> simp only [LeadWidth.bits] <;> omega

end Sys2Proof.Machine
end

section
/-! PROOFS. The statements of the family 30_encoding.md, second part: the layout of a clean transmission
as pulses and as symbols (R100 to R104), and its decoding. -/

namespace Sys2Proof.Machine

section Splitting

/-- The search finds a token that comes right after a segment without one. -/
theorem tokenOffset_append_token {r : List Symbol} (hfree : ∀ t, ¬IsToken r t) (S : List Symbol) :
    tokenOffset (r ++ (.one :: .blockGap :: S)) = some r.length := by
  induction r with
  | nil => simp [tokenOffset]
  | cons x r ih =>
    have hx : ¬(x = .one ∧ (r ++ (.one :: .blockGap :: S)).head? = some .blockGap) := by
      rintro ⟨hone, hgap⟩
      cases r with
      | nil => simp at hgap
      | cons y r => exact hfree 0 ((isToken_cons_zero x (y :: r)).mpr ⟨hone, hgap⟩)
    have hr := ih fun t => mt (isToken_cons_succ x r t).mpr (hfree (t + 1))
    simp only [List.cons_append, tokenOffset, if_neg hx, hr, Option.map_some, List.length_cons]

/-- A slice of the string, cut out of what is left at its beginning. -/
theorem subSeq_eq_take_drop (S : List Symbol) (i j : Nat) : subSeq S i j = (S.drop i).take (j - i) :=
  List.drop_take

/-- At the end of the string only empty Words are left (R226). -/
theorem splitFrom_end (S : List Symbol) (n : Nat) :
    splitFrom S n S.length = List.replicate n none := by
  induction n with
  | zero => rfl
  | succ n ih =>
    have hnone : findToken S S.length = none := by simp [findToken, tokenOffset]
    simp [splitFrom, hnone, ih, subSeq_eq_take_drop, decodeWord, trailSyms, List.replicate_succ]

/-- What is left of the string is cut at its sync tokens, one Word for each segment (R221, R226). -/
theorem splitFrom_intercalate {S : List Symbol} (n : Nat) {pos : Nat} {raws : List (List Symbol)}
    (hne : raws ≠ []) (hfree : ∀ r ∈ raws, ∀ t, ¬IsToken r t) (hpos : pos ≤ S.length)
    (hS : S.drop pos = [Symbol.one, .blockGap].intercalate raws) :
    splitFrom S n pos
      = (raws.take n).map decodeWord ++ List.replicate (n - raws.length) none := by
  induction n generalizing pos raws with
  | zero => simp [splitFrom]
  | succ n ih =>
    match raws with
    | [r] =>
      rw [List.intercalate_singleton] at hS
      have hnone : findToken S pos = none := by
        rw [findToken, hS, (tokenOffset_none_iff r).mpr (hfree r (List.mem_singleton.mpr rfl))]
        rfl
      have hsub : subSeq S pos S.length = r := by
        rw [subSeq_eq_take_drop, ← List.length_drop, List.take_length, hS]
      simp [splitFrom, hnone, hsub, splitFrom_end]
    | r :: r' :: rs =>
      rw [List.intercalate_cons_cons, List.append_assoc] at hS
      have hfind : findToken S pos = some (pos + r.length) := by
        rw [findToken, hS]
        simp only [List.cons_append, List.nil_append,
          tokenOffset_append_token (hfree r List.mem_cons_self), Option.map_some]
      have hsub : subSeq S pos (pos + r.length) = r := by
        rw [subSeq_eq_take_drop, hS, Nat.add_sub_cancel_left, List.take_left]
      have hlen := congrArg List.length hS
      simp only [List.length_drop, List.length_append, List.length_cons] at hlen
      have hrest : S.drop (pos + r.length + 2) = [Symbol.one, .blockGap].intercalate (r' :: rs) := by
        rw [Nat.add_assoc, ← List.drop_drop, hS, ← List.drop_drop, List.drop_left]
        rfl
      have hrec := ih (List.cons_ne_nil r' rs)
        (fun q hq => hfree q (List.mem_cons_of_mem r hq)) (by omega) hrest
      simp [splitFrom, hfind, hsub, hrec]

/-- Segments without a token, joined by tokens, are decoded one by one (R221, R226). -/
theorem split_intercalate {raws : List (List Symbol)} (hne : raws ≠ [])
    (hfree : ∀ r ∈ raws, ∀ t, ¬IsToken r t) :
    split ([Symbol.one, .blockGap].intercalate raws)
      = (raws.take 10).map decodeWord ++ List.replicate (10 - raws.length) none :=
  splitFrom_intercalate 10 hne hfree (Nat.zero_le _) List.drop_zero

end Splitting

section Triplets

@[simp] theorem triBitSymbols_length (t : Bool) : (triBitSymbols t).length = 3 := by
  cases t <;> rfl

/-- Triplets are made of level symbols only. -/
theorem mem_triBitSymbols {x : Symbol} {ts : List Bool} (h : x ∈ ts.flatMap triBitSymbols) :
    x = .one ∨ x = .zero := by
  obtain ⟨t, -, hx⟩ := List.mem_flatMap.mp h
  cases t <;> simp [triBitSymbols] at hx <;> tauto

/-- The bits of a byte, the first one weighing least, are the byte (R103). -/
theorem ofNat_bitsToNat_txBits (b : Byte) : BitVec.ofNat 8 (bitsToNat (txBits b)) = b := by
  apply BitVec.eq_of_getLsbD_eq
  intro i hi
  rw [BitVec.getLsbD_ofNat, bitsToNat_testBit]
  match i, hi with
  | 0, _ | 1, _ | 2, _ | 3, _ | 4, _ | 5, _ | 6, _ | 7, _ => rfl

/-- A byte's eight triplets decode to it, whatever the six symbols after them (R222 to R225). -/
theorem decodeWord_triplets (b : Byte) {trail : List Symbol} (h : trail.length = 6) :
    decodeWord ((txBits b).flatMap triBitSymbols ++ trail) = some b := by
  have hlen : ((txBits b).flatMap triBitSymbols).length = 24 := by
    simp [txBits]
  have herr : Symbol.error ∉ (txBits b).flatMap triBitSymbols := fun hmem =>
    absurd (mem_triBitSymbols hmem) (by decide)
  have hbits := (tripletBits_some_iff _ (txBits b)).mpr rfl
  simp [decodeWord, trailSyms, wordSyms, h, hlen, herr, hbits, ofNat_bitsToNat_txBits,
    List.take_left' hlen]

end Triplets

section Layout

/-- The EDGE that presents a pulse. -/
def edgeOf (e : Entry) : Instr := .edge e.lvl e.dur

@[simp] theorem pulseOf_edgeOf (e : Entry) : pulseOf (edgeOf e) = some e := rfl

/-- The pulses of a sync block (R101, R111). -/
def syncPulses : List Entry := [⟨400#32, true⟩, ⟨3200#32, false⟩]

/-- The pulses of a tri-bit (R100, R111). -/
def bitPulses : Bool → List Entry
  | false => [⟨800#32, true⟩, ⟨400#32, false⟩]
  | true => [⟨400#32, true⟩, ⟨800#32, false⟩]

/-- The pulses of a word (R102, R111). -/
def wordPulses (b : Byte) : List Entry := (txBits b ++ [false, false]).flatMap bitPulses

/-- A sync block and the word after it. -/
def blockPulses (b : Byte) : List Entry := syncPulses ++ wordPulses b

/-- The ten bytes of a frame in transmission order, each twice (R105). -/
def sentBytes (f : FrameBytes) : List Byte :=
  [f.b0, f.b0, f.b1, f.b1, f.b2, f.b2, f.b3, f.b3, f.b4, f.b4]

/-- The pulses of `FRAME` (R111). -/
def framePulses (f : FrameBytes) : List Entry :=
  (sentBytes f).flatMap blockPulses ++ [⟨400#32, true⟩]

theorem bitOps_eq_map (t : Bool) : bitOps t = (bitPulses t).map edgeOf := by cases t <;> rfl

theorem wordOps_eq_map (b : Byte) : wordOps b = (wordPulses b).map edgeOf := by
  rw [wordOps, wordPulses, List.map_flatMap]
  exact congrArg (List.flatMap · _) (funext bitOps_eq_map)

/-- `FRAME` presents its pulses one by one. -/
theorem frameOps_eq_map (f : FrameBytes) : frameOps f = (framePulses f).map edgeOf := by
  have hblock : (fun b => syncOps ++ wordOps b) = fun b => (blockPulses b).map edgeOf :=
    funext fun b => by rw [wordOps_eq_map, blockPulses, List.map_append]; rfl
  rw [frameOps, framePulses, List.map_append, List.map_flatMap, hblock]
  rfl

theorem filterMap_pulseOf_frameOps (f : FrameBytes) :
    (frameOps f).filterMap pulseOf = framePulses f := by
  rw [frameOps_eq_map, List.filterMap_map]
  exact List.filterMap_some

@[simp] theorem bitPulses_length (t : Bool) : (bitPulses t).length = 2 := by cases t <;> rfl

@[simp] theorem wordPulses_length (b : Byte) : (wordPulses b).length = 20 := by
  simp [wordPulses, txBits]

@[simp] theorem blockPulses_length (b : Byte) : (blockPulses b).length = 22 := by
  simp [blockPulses, syncPulses]

theorem flatMap_blockPulses_length (bs : List Byte) :
    (bs.flatMap blockPulses).length = 22 * bs.length := by
  simp [List.length_flatMap, Nat.mul_comm]

@[simp] theorem framePulses_length (f : FrameBytes) : (framePulses f).length = 221 := by
  simp [framePulses, sentBytes]

/-- After its first sync block a row of blocks is its words with sync blocks between them (R104). -/
theorem flatMap_blockPulses_eq (b : Byte) (bs : List Byte) :
    (b :: bs).flatMap blockPulses
      = syncPulses ++ syncPulses.intercalate ((b :: bs).map wordPulses) := by
  induction bs generalizing b with
  | nil => simp [blockPulses]
  | cons b' bs ih =>
    rw [List.flatMap_cons, ih b']
    simp only [List.map_cons, List.intercalate_cons_cons, blockPulses, List.append_assoc]

/-- The frame as captured: ten words with nine sync blocks between them (R104). -/
theorem cleanFramePulses_eq (f : FrameBytes) :
    cleanFramePulses f = syncPulses.intercalate ((sentBytes f).map wordPulses) := by
  have hall : (sentBytes f).flatMap blockPulses
      = syncPulses ++ syncPulses.intercalate ((sentBytes f).map wordPulses) :=
    flatMap_blockPulses_eq f.b0 (sentBytes f).tail
  have hlen : (syncPulses.intercalate ((sentBytes f).map wordPulses)).length = 218 := by
    have hsum := congrArg List.length hall
    rw [flatMap_blockPulses_length, List.length_append] at hsum
    exact Nat.add_left_cancel (n := 2) hsum.symm
  rw [cleanFramePulses, filterMap_pulseOf_frameOps, framePulses, hall, List.append_assoc]
  exact List.take_left' hlen

end Layout

section Symbols

theorem symbolsOf_eq_flatten (es : List Entry) : symbolsOf es = (es.map classify).flatten := by
  induction es with
  | nil => rfl
  | cons e es ih => rw [symbolsOf, ih, List.map_cons, List.flatten_cons]

@[simp] theorem symbolsOf_append (es fs : List Entry) :
    symbolsOf (es ++ fs) = symbolsOf es ++ symbolsOf fs := by
  simp [symbolsOf_eq_flatten]

/-- A sync block is a sync token (R101). -/
theorem symbolsOf_syncPulses : symbolsOf syncPulses = [.one, .blockGap] := by decide

/-- A tri-bit's pulses are its triplet (R100). -/
theorem symbolsOf_bitPulses (t : Bool) : symbolsOf (bitPulses t) = triBitSymbols t := by
  cases t <;> decide

theorem symbolsOf_flatMap_bitPulses (ts : List Bool) :
    symbolsOf (ts.flatMap bitPulses) = ts.flatMap triBitSymbols := by
  induction ts with
  | nil => rfl
  | cons t ts ih => rw [List.flatMap_cons, symbolsOf_append, ih, symbolsOf_bitPulses, List.flatMap_cons]

theorem symbolsOf_intercalate (es : List Entry) (raws : List (List Entry)) :
    symbolsOf (es.intercalate raws) = (symbolsOf es).intercalate (raws.map symbolsOf) := by
  match raws with
  | [] => rfl
  | [r] => simp
  | r :: r' :: rs =>
    rw [List.intercalate_cons_cons, symbolsOf_append, symbolsOf_append,
      symbolsOf_intercalate es (r' :: rs)]
    simp only [List.map_cons, List.intercalate_cons_cons]

/-- A word's pulses hold no sync token. -/
theorem not_isToken_symbolsOf_wordPulses (b : Byte) (t : Nat) :
    ¬IsToken (symbolsOf (wordPulses b)) t := by
  rintro ⟨-, hgap⟩
  rw [wordPulses, symbolsOf_flatMap_bitPulses] at hgap
  exact absurd (mem_triBitSymbols (List.mem_of_getElem? hgap)) (by decide)

/-- A word's pulses decode to its byte. -/
theorem decodeWord_wordPulses (b : Byte) : decodeWord (symbolsOf (wordPulses b)) = some b := by
  rw [wordPulses, symbolsOf_flatMap_bitPulses, List.flatMap_append]
  exact decodeWord_triplets b rfl

/-- The ten Words of a clean transmission. -/
theorem split_cleanFramePulses (f : FrameBytes) :
    split (symbolsOf (cleanFramePulses f)) = cleanFrameWords f := by
  rw [cleanFramePulses_eq, symbolsOf_intercalate, symbolsOf_syncPulses, List.map_map,
    split_intercalate (raws := (sentBytes f).map _) (List.cons_ne_nil _ _)]
  · simp [sentBytes, decodeWord_wordPulses, cleanFrameWords]
  · intro r hr
    obtain ⟨b, -, rfl⟩ := List.mem_map.mp hr
    exact not_isToken_symbolsOf_wordPulses b

/-- Two equal copies of each byte merge to the bytes, by the default pairing (R254). -/
theorem merge_cleanFrameWords (f : FrameBytes) :
    merge (cleanFrameWords f) = (validBytes f, false) := by
  simp [merge, alignmentShifted, defaultPairing, wordAt, cleanFrameWords, validBytes, resolve]

end Symbols

/-- Settles O31: the tri-bit string depends on the classes alone, its segments are the ten words, and the
two copies of each byte agree. -/
theorem cleanTransmissionDecodesToItsBytes : Obligations.CleanTransmissionDecodesToItsBytes := by
  unfold Obligations.CleanTransmissionDecodesToItsBytes
  intro f es hclass
  have hsplit : split (symbolsOf es) = cleanFrameWords f := by
    rw [symbolsOf_eq_flatten, hclass, ← symbolsOf_eq_flatten, split_cleanFramePulses]
  exact ⟨hsplit, hsplit ▸ merge_cleanFrameWords f⟩

end Sys2Proof.Machine
end

section
/-! PROOFS. The statements of the family 30_encoding.md, third part: a clean transmission captured pulse
by pulse from Idle to Ready (R104, R181), and decoded from there. -/

namespace Sys2Proof.Machine

section SyncStepEquations
variable {s : State} {c : Slot}

theorem syncStep_of_not_qual (h9 : s.bc.toNat ≤ 9) (hq : s.qual c = false) : syncStep c s = s := by
  have hlt : s.bc.toNat < 10 := by omega
  simp [syncStep, idleStep, accumStep, nBlocks, hq, hlt]

theorem syncStep_of_early (h10 : s.bc.toNat = 10) (hd : distance s.lbi c ≠ 20) :
    syncStep c s = s := by
  simp [syncStep, armedStep, nBlocks, readyDist, h10, hd]

theorem syncStep_of_idle (h0 : s.bc.toNat = 0) (hq : s.qual c = true) :
    syncStep c s = s.firstBlock c := by
  simp [syncStep, idleStep, h0, hq]

theorem syncStep_of_next_block (h1 : 1 ≤ s.bc.toNat) (h9 : s.bc.toNat ≤ 9) (hq : s.qual c = true)
    (hd : distance s.lbi c = 21) : syncStep c s = s.acceptBlock c := by
  have h0 : s.bc.toNat ≠ 0 := by omega
  have hlt : s.bc.toNat < 10 := by omega
  simp [syncStep, accumStep, nBlocks, blockDist, h0, hlt, hq, hd]

theorem syncStep_of_ready_edge (h10 : s.bc.toNat = 10) (hd : distance s.lbi c = 20)
    (hl : (s.ring.read c).lvl = true) : syncStep c s = s.declareReady := by
  simp [syncStep, armedStep, nBlocks, readyDist, h10, hd, hl]

theorem qual_of_not_low (h : (s.ring.read c).isSyncLow = false) : s.qual c = false := by
  rw [State.qual, h, Bool.false_and]

end SyncStepEquations

section Slots

theorem slotAfter_inj {i : Slot} {m n : Nat} (hm : m < 1000) (hn : n < 1000)
    (h : slotAfter i m = slotAfter i n) : m = n := by
  have hv := congrArg Fin.val h
  simp only [slotAfter_val] at hv
  omega

theorem distance_slotAfter (i : Slot) {m n : Nat} (hle : m ≤ n) (hlt : n < m + 1000) :
    distance (slotAfter i m) (slotAfter i n) = n - m := by
  simp only [distance_val, slotAfter_val]
  omega

theorem next_slotAfter (i : Slot) (n : Nat) : next (slotAfter i n) = slotAfter i (n + 1) := by
  rw [next_eq_slotAfter, slotAfter_slotAfter]

theorem previous_slotAfter_succ (i : Slot) (n : Nat) :
    previous (slotAfter i (n + 1)) = slotAfter i n := by
  rw [← next_slotAfter, previous_of_next]

end Slots

section Reaching

/-- `n` steps from `s` end in a state with the property `P`. -/
def Reaches (n : Nat) (s : State) (P : State → Prop) : Prop :=
  ∃ t : State, Sys2Proof.core.run n s = .next t ∧ P t

theorem Reaches.refl {s : State} {P : State → Prop} (h : P s) : Reaches 0 s P := ⟨s, rfl, h⟩

theorem Reaches.of_step {s t : State} {P : State → Prop} (h : step s = .next t) (ht : P t) :
    Reaches 1 s P := ⟨t, run_succ 0 h, ht⟩

theorem Reaches.trans {m n : Nat} {s : State} {P Q : State → Prop} (h : Reaches m s P)
    (hnext : ∀ t, P t → Reaches n t Q) : Reaches (m + n) s Q := by
  obtain ⟨t, hrun, ht⟩ := h
  obtain ⟨u, hrun', hu⟩ := hnext t ht
  exact ⟨u, (run_add n hrun).trans hrun', hu⟩

end Reaching

section Capturing

/-- The four registers SyncStep may write. -/
def State.detector (s : State) : Detector := ⟨s.bc, s.start, s.lbi, s.ready⟩

/-- The word that presents a pulse. -/
def pulseWord (e : Entry) : TxnWord := Sys2Proof.encode (edgeOf e)

/-- `t` is `s` with the pulses `es` captured from the cursor on, the detector at `d`, and the words `ws`
still to come. -/
structure Captured (s : State) (es : List Entry) (d : Detector) (ws : List TxnWord) (t : State) :
    Prop where
  wf : t.ring.wf = true
  wr : t.wr = slotAfter s.wr es.length
  read : ∀ (k : Nat) (e : Entry), es[k]? = some e → t.ring.read (slotAfter s.wr k) = e
  detector : t.detector = d
  trace : t.trace = ws
  command : SameCommand s t
  dedup : SameDedup s t
  status : SameStatus s t
  params : t.params = s.params

variable {s t u : State} {es : List Entry} {e : Entry} {d : Detector} {ws : List TxnWord}

theorem Captured.refl (hwf : s.ring.wf = true) : Captured s [] s.detector s.trace s where
  wf := hwf
  wr := (slotAfter_zero s.wr).symm
  read := nofun
  detector := rfl
  trace := rfl
  command := ⟨rfl, rfl⟩
  dedup := ⟨rfl, rfl, rfl, rfl, rfl⟩
  status := ⟨rfl, rfl, rfl, rfl⟩
  params := rfl

/-- An append captures one more pulse. -/
theorem Captured.append (h : Captured s es d (pulseWord e :: ws) t) (hroom : es.length < 1000) :
    Captured s (es ++ [e]) d ws ({ t with trace := ws }.append e) where
  wf := Memory.wf_write h.wf
  wr := by
    rw [State.append_wr, h.wr, next_slotAfter, List.length_append, List.length_singleton]
  read k x hk := by
    rw [State.append_ring, Memory.read_write h.wf, h.wr]
    by_cases hlt : k < es.length
    · have hne : slotAfter s.wr k ≠ slotAfter s.wr es.length := fun heq =>
        absurd (slotAfter_inj (by omega) hroom heq) (by omega)
      rw [if_neg hne]
      exact h.read k x (by rwa [List.getElem?_append_left hlt] at hk)
    · obtain ⟨hlen, -⟩ := List.getElem?_eq_some_iff.mp hk
      rw [List.length_append, List.length_singleton] at hlen
      obtain rfl : k = es.length := by omega
      rw [if_pos rfl]
      exact Option.some.inj (List.getElem?_concat_length.symm.trans hk)
  detector := h.detector
  trace := rfl
  command := h.command
  dedup := h.dedup
  status := h.status
  params := h.params

/-- SyncStep writes the detector alone. -/
theorem Captured.after_syncStep (c : Slot) (h : Captured s es d ws u) :
    Captured s es (syncStep c u).detector ws (syncStep c u) where
  wf := by rw [syncStep_ring]; exact h.wf
  wr := by rw [syncStep_wr]; exact h.wr
  read k e hk := by rw [syncStep_ring]; exact h.read k e hk
  detector := rfl
  trace := by rw [syncStep_trace]; exact h.trace
  command := by simpa [SameCommand] using h.command
  dedup := by simpa [SameDedup] using h.dedup
  status := by simpa [SameStatus] using h.status
  params := by rw [syncStep_params]; exact h.params

/-- A step presents the next pulse: it is appended, and SyncStep runs on its slot. -/
theorem Captured.step_edge {d' : Detector} (h : Captured s es d (pulseWord e :: ws) t)
    (hready : d.ready = false) (hlong : 50 < e.dur.toNat) (hroom : es.length < 1000)
    (hsync : ∀ u, Captured s (es ++ [e]) d ws u →
      (syncStep (slotAfter s.wr es.length) u).detector = d') :
    Reaches 1 t (Captured s (es ++ [e]) d' ws) := by
  have hu := h.append hroom
  have hr : t.ready = false := (congrArg Detector.ready h.detector).trans hready
  have hstep : step t
      = .next (syncStep (slotAfter s.wr es.length) ({ t with trace := ws }.append e)) := by
    rw [step, fetch_cons h.trace, pulseWord, decode_encode, ← h.wr]
    exact execEdge_append (s := { t with trace := ws }) hr hlong
  refine Reaches.of_step hstep ?_
  rw [← hsync _ hu]
  exact hu.after_syncStep _

/-- The entry just captured. -/
theorem Captured.read_last (h : Captured s (es ++ [e]) d ws u) :
    u.ring.read (slotAfter s.wr es.length) = e :=
  h.read _ _ List.getElem?_concat_length

/-- A pulse that is stored and completes no sync block. -/
def Quiet (e : Entry) : Prop := 50 < e.dur.toNat ∧ e.isSyncLow = false

/-- The detector does not look at a quiet pulse at the slot `n` slots after the cursor of `s`: it is not
armed, or the slot is before the one that declares Ready. -/
def Unmoved (s : State) (d : Detector) (n : Nat) : Prop :=
  d.bc.toNat ≤ 9 ∨ (d.bc.toNat = 10 ∧ distance d.lbi (slotAfter s.wr n) ≠ 20)

/-- A quiet pulse leaves the detector as it is. -/
theorem Captured.step_quiet (h : Captured s es d (pulseWord e :: ws) t) (hready : d.ready = false)
    (hq : Quiet e) (hroom : es.length < 1000) (hd : Unmoved s d es.length) :
    Reaches 1 t (Captured s (es ++ [e]) d ws) := by
  obtain ⟨hlong, hlow⟩ := hq
  refine h.step_edge hready hlong hroom fun u hu => ?_
  obtain rfl := hu.detector
  obtain h9 | ⟨h10, hdist⟩ := hd
  · rw [syncStep_of_not_qual h9 (qual_of_not_low (hu.read_last.symm ▸ hlow))]
  · rw [syncStep_of_early h10 hdist]

/-- A row of quiet pulses leaves the detector as it is. -/
theorem Captured.run_quiet (fs : List Entry)
    (h : Captured s es d (fs.map pulseWord ++ ws) t) (hready : d.ready = false)
    (hq : ∀ e ∈ fs, Quiet e) (hroom : es.length + fs.length ≤ 1000)
    (hd : ∀ k, k < fs.length → Unmoved s d (es.length + k)) :
    Reaches fs.length t (Captured s (es ++ fs) d ws) := by
  induction fs generalizing es t with
  | nil =>
    rw [List.append_nil]
    exact .refl h
  | cons e fs ih =>
    rw [List.length_cons] at hroom hd ⊢
    rw [Nat.add_comm]
    refine (h.step_quiet hready (hq e List.mem_cons_self) (by omega) (hd 0 (by omega))).trans
      fun u hu => ?_
    rw [List.append_cons]
    refine ih hu (fun x hx => hq x (List.mem_cons_of_mem e hx)) ?_ fun k hk => ?_
    · rw [List.length_append, List.length_singleton]
      omega
    · rw [List.length_append, List.length_singleton, Nat.add_assoc, Nat.add_comm 1]
      exact hd (k + 1) (by omega)

end Capturing

section Frame

/-- Every pulse of a word is quiet. -/
theorem quiet_of_mem_wordPulses {b : Byte} {e : Entry} (h : e ∈ wordPulses b) : Quiet e := by
  obtain ⟨t, -, he⟩ := List.mem_flatMap.mp h
  have hbit : ∀ t, ∀ e ∈ bitPulses t, Quiet e := by
    unfold Quiet
    decide
  exact hbit t e he

/-- The detector when `n` blocks of a transmission that began at the cursor of `s` have been accepted. -/
def detectorAfter (s : State) : Nat → Detector
  | 0 => s.detector
  | n + 1 => ⟨BitVec.ofNat 4 (n + 1), slotAfter s.wr 2, slotAfter s.wr (22 * n + 2), false⟩

/-- The detector when the transmission has been captured: ten blocks, and Ready. -/
def detectorAtReady (s : State) : Detector := ⟨10, slotAfter s.wr 2, slotAfter s.wr 200, true⟩

variable {s t : State} {es : List Entry} {ws : List TxnWord} {n : Nat}

theorem detectorAfter_ready (hready : s.ready = false) (n : Nat) :
    (detectorAfter s n).ready = false := by
  cases n with
  | zero => exact hready
  | succ n => rfl

theorem detectorAfter_bc (hidle : s.bc.toNat = 0) (hn : n ≤ 10) :
    (detectorAfter s n).bc.toNat = n := by
  cases n with
  | zero => exact hidle
  | succ n => exact Nat.mod_eq_of_lt (by omega)

/-- The low pulse of a sync block is the next block: the first one from Idle (R172), later ones 21 slots
after `LBI` (R173). -/
theorem syncStep_block {u : State} (hidle : s.bc.toNat = 0) (hready : s.ready = false) (hn : n ≤ 9)
    (hd : u.detector = detectorAfter s n) (hq : u.qual (slotAfter s.wr (22 * n + 1)) = true) :
    (syncStep (slotAfter s.wr (22 * n + 1)) u).detector = detectorAfter s (n + 1) := by
  have hbc : u.bc.toNat = n :=
    (congrArg (fun d => d.bc.toNat) hd).trans (detectorAfter_bc hidle (by omega))
  cases n with
  | zero =>
    have hr : u.ready = false := (congrArg Detector.ready hd).trans hready
    rw [syncStep_of_idle hbc hq]
    simp [State.detector, detectorAfter, hr, next_slotAfter]
  | succ n =>
    have hlbi : u.lbi = slotAfter s.wr (22 * n + 2) := congrArg Detector.lbi hd
    have hdist : distance u.lbi (slotAfter s.wr (22 * (n + 1) + 1)) = 21 := by
      rw [hlbi, distance_slotAfter _ (by omega) (by omega)]
      omega
    have hcount : u.bc + 1#4 = BitVec.ofNat 4 (n + 1 + 1) :=
      BitVec.eq_of_toNat_eq (by rw [BitVec.toNat_add, hbc, BitVec.toNat_ofNat, BitVec.toNat_ofNat])
    have hstart : u.start = slotAfter s.wr 2 := congrArg Detector.start hd
    have hr : u.ready = false := congrArg Detector.ready hd
    rw [syncStep_of_next_block (by omega) (by omega) hq hdist]
    simp [State.detector, detectorAfter, hcount, hstart, hr, next_slotAfter]

/-- A sync block whose pulses have been captured qualifies (R170). -/
theorem Captured.qual_sync {d : Detector} {u : State}
    (h : Captured s (es ++ syncPulses) d ws u) (hlen : es.length = 22 * n) :
    u.qual (slotAfter s.wr (22 * n + 1)) = true := by
  have hhigh : u.ring.read (slotAfter s.wr (22 * n)) = ⟨400#32, true⟩ :=
    h.read _ _ (by rw [List.getElem?_append_right (by omega), hlen, Nat.sub_self]; rfl)
  have hlow : u.ring.read (slotAfter s.wr (22 * n + 1)) = ⟨3200#32, false⟩ :=
    h.read _ _ (by rw [List.getElem?_append_right (by omega), hlen, Nat.add_sub_cancel_left]; rfl)
  rw [State.qual, previous_slotAfter_succ, hhigh, hlow]
  decide

/-- A sync block is accepted: its high pulse is quiet, its low one the next block. -/
theorem Captured.run_sync (h : Captured s es (detectorAfter s n) (syncPulses.map pulseWord ++ ws) t)
    (hidle : s.bc.toNat = 0) (hready : s.ready = false) (hlen : es.length = 22 * n) (hn : n ≤ 9) :
    Reaches 2 t (Captured s (es ++ syncPulses) (detectorAfter s (n + 1)) ws) := by
  have hbc : (detectorAfter s n).bc.toNat = n := detectorAfter_bc hidle (by omega)
  refine (h.step_quiet (detectorAfter_ready hready n) (e := ⟨400#32, true⟩)
    (by unfold Quiet; decide) (by omega) (.inl (by omega))).trans (n := 1) fun u hu => ?_
  have hlen' : (es ++ [(⟨400#32, true⟩ : Entry)]).length = 22 * n + 1 := by
    rw [List.length_append, hlen, List.length_singleton]
  have hstep := hu.step_edge (e := ⟨3200#32, false⟩) (d' := detectorAfter s (n + 1))
    (detectorAfter_ready hready n) (by decide) (by omega) fun v hv => by
      rw [List.append_assoc] at hv
      rw [hlen']
      exact syncStep_block hidle hready hn hv.detector (hv.qual_sync hlen)
  rwa [List.append_assoc] at hstep

/-- A word leaves the detector as it is: before the last block none of its pulses qualifies, and after it
all of them come before the slot that declares Ready. -/
theorem unmoved_in_word (hidle : s.bc.toNat = 0) (hn : n ≤ 9) {k : Nat} (hk : k < 20) :
    Unmoved s (detectorAfter s (n + 1)) (22 * n + 2 + k) := by
  have hbc := detectorAfter_bc (n := n + 1) hidle (by omega)
  obtain hlt | rfl : n < 9 ∨ n = 9 := by omega
  · exact .inl (by omega)
  · refine .inr ⟨hbc, ?_⟩
    show distance (slotAfter s.wr 200) _ ≠ 20
    rw [distance_slotAfter _ (by omega) (by omega)]
    omega

/-- One block: its sync block is accepted and its word stored. -/
theorem Captured.run_block (b : Byte)
    (h : Captured s es (detectorAfter s n) ((blockPulses b).map pulseWord ++ ws) t)
    (hidle : s.bc.toNat = 0) (hready : s.ready = false) (hlen : es.length = 22 * n) (hn : n ≤ 9) :
    Reaches 22 t (Captured s (es ++ blockPulses b) (detectorAfter s (n + 1)) ws) := by
  rw [blockPulses, List.map_append, List.append_assoc] at h
  refine (h.run_sync hidle hready hlen hn).trans (n := 20) fun u hu => ?_
  have hlen' : (es ++ syncPulses).length = 22 * n + 2 := by
    rw [List.length_append, hlen]
    rfl
  have hword := hu.run_quiet (wordPulses b) (detectorAfter_ready hready (n + 1))
    (fun e => quiet_of_mem_wordPulses) (by rw [wordPulses_length]; omega)
    (fun k hk => by
      rw [wordPulses_length] at hk
      rw [hlen']
      exact unmoved_in_word hidle hn hk)
  rwa [wordPulses_length, List.append_assoc] at hword

/-- A row of blocks. -/
theorem Captured.run_blocks (bs : List Byte)
    (h : Captured s es (detectorAfter s n) ((bs.flatMap blockPulses).map pulseWord ++ ws) t)
    (hidle : s.bc.toNat = 0) (hready : s.ready = false) (hlen : es.length = 22 * n)
    (hn : n + bs.length ≤ 10) :
    Reaches (22 * bs.length) t
      (Captured s (es ++ bs.flatMap blockPulses) (detectorAfter s (n + bs.length)) ws) := by
  induction bs generalizing es t n with
  | nil =>
    rw [List.flatMap_nil, List.append_nil]
    exact .refl h
  | cons b bs ih =>
    rw [List.length_cons] at hn ⊢
    rw [List.flatMap_cons, List.map_append, List.append_assoc] at h
    rw [Nat.mul_succ, Nat.add_comm (22 * bs.length)]
    refine (h.run_block b hidle hready hlen (by omega)).trans fun u hu => ?_
    have hlen' : (es ++ blockPulses b).length = 22 * (n + 1) := by
      rw [List.length_append, hlen, blockPulses_length, Nat.mul_succ]
    have hrest := ih hu hlen' (by omega)
    rwa [List.append_assoc, ← List.flatMap_cons, Nat.add_assoc, Nat.add_comm 1] at hrest

/-- The high pulse after the tenth word declares Ready (R177). -/
theorem Captured.step_last (h : Captured s es (detectorAfter s 10) (pulseWord ⟨400#32, true⟩ :: ws) t)
    (hlen : es.length = 220) :
    Reaches 1 t (Captured s (es ++ [⟨400#32, true⟩]) (detectorAtReady s) ws) := by
  refine h.step_edge rfl (by decide) (by omega) fun u hu => ?_
  have hlbi : u.lbi = slotAfter s.wr 200 := congrArg Detector.lbi hu.detector
  have hbc : u.bc = 10 := congrArg Detector.bc hu.detector
  have hdist : distance u.lbi (slotAfter s.wr es.length) = 20 := by
    rw [hlbi, hlen, distance_slotAfter _ (by omega) (by omega)]
  rw [syncStep_of_ready_edge (by rw [hbc]; rfl) hdist (by rw [hu.read_last])]
  exact congrArg (fun d : Detector => { d with ready := true }) hu.detector

/-- A clean transmission presented from Idle is captured whole and declares Ready. -/
theorem run_frame (f : FrameBytes) (hwf : s.ring.wf = true) (hidle : s.bc.toNat = 0)
    (hready : s.ready = false) (htrace : s.trace = (frameOps f).map Sys2Proof.encode ++ ws) :
    Reaches 221 s (Captured s (framePulses f) (detectorAtReady s) ws) := by
  have h0 := Captured.refl hwf
  rw [htrace, frameOps_eq_map, List.map_map, framePulses, List.map_append, List.append_assoc] at h0
  refine (h0.run_blocks (n := 0) (sentBytes f) hidle hready rfl (Nat.le_refl 10)).trans (n := 1)
    fun t ht => ?_
  exact ht.step_last (flatMap_blockPulses_length (sentBytes f))

/-- Once Ready the frame slice holds the 218 entries of the clean frame (R104, R201). -/
theorem Captured.frameEntries_eq {f : FrameBytes}
    (h : Captured s (framePulses f) (detectorAtReady s) ws t) :
    t.frameEntries = cleanFramePulses f := by
  have hstart : t.start = slotAfter s.wr 2 := congrArg Detector.start h.detector
  have hlbi : t.lbi = slotAfter s.wr 200 := congrArg Detector.lbi h.detector
  have hslice : t.slice = slotRun (slotAfter s.wr 2) 218 := by
    rw [State.slice, State.sliceEnd, hstart, hlbi, slotAfter_slotAfter]
    exact congrArg (slotRun _) (distance_slotAfter s.wr (by decide) (by decide))
  rw [State.frameEntries, hslice, cleanFramePulses, filterMap_pulseOf_frameOps]
  apply List.ext_getElem?
  intro k
  by_cases hk : k < 218
  · obtain ⟨e, he⟩ : ∃ e, (framePulses f)[2 + k]? = some e :=
      ⟨_, List.getElem?_eq_getElem (by rw [framePulses_length]; omega)⟩
    rw [List.getElem?_map, slotRun_getElem? _ _ _ hk, Option.map_some, slotAfter_slotAfter,
      h.read _ _ he, List.getElem?_take_of_lt hk, List.getElem?_drop, he]
  · rw [List.getElem?_eq_none (by simp; omega), List.getElem?_eq_none (by simp; omega)]

end Frame

/-- Settles O56: the pulses of the transmission are captured one by one; the detector counts its ten sync
blocks and declares Ready on the last pulse. -/
theorem cleanTransmissionReachesReady : Obligations.CleanTransmissionReachesReady := by
  unfold Obligations.CleanTransmissionReachesReady
  intro f s ws hwf hready hidle htrace
  obtain ⟨t, hrun, ht⟩ := run_frame f hwf hidle hready htrace
  have hstart : t.start = slotAfter s.wr 2 := congrArg Detector.start ht.detector
  have hlbi : t.lbi = slotAfter s.wr 200 := congrArg Detector.lbi ht.detector
  have hbc : t.bc = 10 := congrArg Detector.bc ht.detector
  refine ⟨t, hrun, ht.trace, congrArg Detector.ready ht.detector, by rw [hbc]; rfl, by rw [hstart]; rfl,
    by rw [hlbi]; rfl, ?_, ht.frameEntries_eq, ht.command, ht.dedup, ht.status, ht.params⟩
  rw [ht.wr, framePulses_length]
  rfl

section Outcome

theorem frameWords_of_clean {s : State} {f : FrameBytes} (h : s.frameEntries = cleanFramePulses f) :
    s.frameWords = cleanFrameWords f := by
  rw [State.frameWords, State.triBitString, h, split_cleanFramePulses]

theorem frameBytes_of_clean {s : State} {f : FrameBytes} (h : s.frameEntries = cleanFramePulses f) :
    s.frameBytes = validBytes f := by
  rw [State.frameBytes, frameWords_of_clean h, merge_cleanFrameWords]

/-- The outcome for five valid bytes, in the spec's terms (R278, R328). -/
theorem commandOutcome_validBytes (s : State) (f : FrameBytes) :
    commandOutcome s (validBytes f) =
      if ¬RecognisedType (lead s.params f.b0) then (.unrecType, none)
      else if ¬RecognisedAction (tail s.params f.b4) then (.unrecAction, none)
      else if ¬NotSuppressed s f then (.suppressed, none)
      else (.emitted, some (commandOf s.params f)) := by
  obtain ⟨hlost, -⟩ | ⟨g, hg, h⟩ := commandOutcome_cases s (validBytes f)
  · cases hlost
  · obtain rfl : f = g := Option.some.inj hg
    rw [ne_eq, ne_eq, senderType_unrecognized_iff, actionOf_unrecognized_iff, suppresses_iff,
      ← Bool.not_eq_true, suppresses_iff] at h
    obtain ⟨ht, h⟩ | ⟨ht, ⟨ha, h⟩ | ⟨ha, ⟨hs, h⟩ | ⟨hs, h⟩⟩⟩ := h
    · rw [h, if_pos ht]
    · rw [h, if_neg ht, if_pos ha]
    · rw [h, if_neg ht, if_neg ha, if_pos hs]
    · rw [h, if_neg ht, if_neg ha, if_neg hs]

/-- All ten Words of a clean transmission are valid. -/
theorem validBits_cleanFrameWords (f : FrameBytes) : validBits 10 (cleanFrameWords f) = 0x3FF#10 := by
  have hall : (cleanFrameWords f).map Option.isSome = List.replicate 10 true := rfl
  rw [validBits, hall]
  decide

theorem validBits_validBytes (f : FrameBytes) : validBits 5 (validBytes f) = 0x1F#5 := by
  have hall : (validBytes f).map Option.isSome = List.replicate 5 true := rfl
  rw [validBits, hall]
  decide

/-- The outcome depends on the parameters and the DedupState alone. -/
theorem commandOutcome_congr {s u : State} (hp : u.params = s.params) (hd : SameDedup s u)
    (l : List (Option Byte)) : commandOutcome u l = commandOutcome s l := by
  obtain ⟨hv, hc, h0, h1, h2⟩ := hd
  simp [commandOutcome, State.suppresses, State.repeatsKey, hp, hv, hc, h0, h1, h2]

theorem commandOutcome_of_emits {s : State} {f : FrameBytes} (h : Emits s f) :
    commandOutcome s (validBytes f) = (.emitted, some (commandOf s.params f)) := by
  obtain ⟨ht, ha, hs⟩ := h
  rw [commandOutcome_validBytes, if_neg (not_not.mpr ht), if_neg (not_not.mpr ha),
    if_neg (not_not.mpr hs)]

theorem commandOutcome_of_not_emits {s : State} {f : FrameBytes} (h : ¬Emits s f) :
    (commandOutcome s (validBytes f)).2 = none := by
  rw [commandOutcome_validBytes]
  split_ifs with ht ha hs
  · exact absurd ⟨ht, ha, hs⟩ h
  · rfl
  · rfl
  · rfl

theorem sameCommand_trans {s u t : State} (h : SameCommand s u) (h' : SameCommand u t) :
    SameCommand s t := by
  obtain ⟨hv, hc⟩ := h
  obtain ⟨hv', hc'⟩ := h'
  exact ⟨hv'.trans hv, hc'.trans hc⟩

theorem sameDedup_trans {s u t : State} (h : SameDedup s u) (h' : SameDedup u t) :
    SameDedup s t := by
  obtain ⟨hv, hc, h0, h1, h2⟩ := h
  obtain ⟨hv', hc', h0', h1', h2'⟩ := h'
  exact ⟨hv'.trans hv, hc'.trans hc, h0'.trans h0, h1'.trans h1, h2'.trans h2⟩

/-- A DECODE without a Command keeps the output register and the DedupState. -/
theorem decodeFrame_keeps_output {s : State} (h : (commandOutcome s s.frameBytes).2 = none) :
    SameCommand s (decodeFrame s) ∧ SameDedup s (decodeFrame s) := by
  simp [SameCommand, SameDedup, decodeFrame_cmdValid, decodeFrame_cmd, decodeFrame_dedupValid,
    decodeFrame_lastCounter, decodeFrame_lastId0, decodeFrame_lastId1, decodeFrame_lastId2, h]

/-- A step of an exhausted run takes the DECODE that is still enabled (R309). -/
theorem step_of_decodeEnabled {s : State} (htrace : s.trace = []) (hen : s.decodeEnabled = true) :
    step s = .next (decodeFrame s) := by
  rw [step, fetch_nil htrace, if_pos hen]
  exact execDecode_of_enabled hen

end Outcome

/-- Settles O57: the frame captured by the transmission's 221 EDGEs splits into its ten Words, and the
222nd step decodes it by the emission predicate. -/
theorem cleanTransmissionIsDecodedEndToEnd : Obligations.CleanTransmissionIsDecodedEndToEnd := by
  unfold Obligations.CleanTransmissionIsDecodedEndToEnd
  intro f s hwf hready hidle hvalid htrace
  obtain ⟨u, hrun, hu⟩ := run_frame f hwf hidle hready (htrace.trans (List.append_nil _).symm)
  have hwords := frameWords_of_clean hu.frameEntries_eq
  have hbytes := frameBytes_of_clean hu.frameEntries_eq
  have hen : u.decodeEnabled = true :=
    decodeEnabled_iff.mpr ⟨congrArg Detector.ready hu.detector, hu.command.1.trans hvalid⟩
  have hout : commandOutcome u u.frameBytes = commandOutcome s (validBytes f) := by
    rw [hbytes, commandOutcome_congr hu.params hu.dedup]
  have hstep := step_of_decodeEnabled hu.trace hen
  have hstatus : (decodeFrame u).decStatus = (commandOutcome s (validBytes f)).1.code := by
    rw [decodeFrame_decStatus, hout]
  refine ⟨u, decodeFrame u, hrun, hwords, hbytes, execDecode_of_enabled hen,
    (run_add 1 hrun).trans (run_succ 0 hstep), ?_, ?_, ?_, ?_, ?_, ?_, decodeFrame_ready u, ?_,
    fun hem => ?_, fun hem => ?_, fun ht => ?_, fun ht ha => ?_, fun ht ha hs => ?_⟩
  · simp [State.runEnded, State.decodeEnabled, hu.trace]
  · simp [State.captureEn]
  · rw [decodeFrame_wordValid, hwords, validBits_cleanFrameWords]
  · rw [decodeFrame_byteValid, hbytes, validBits_validBytes]
  · rw [decodeFrame_shifted, hwords, merge_cleanFrameWords]
  · rw [decodeFrame_bc]
    rfl
  · rw [decodeFrame_wr, hu.wr, framePulses_length]
    rfl
  · rw [hstatus, decodeFrame_cmdValid, decodeFrame_cmd, hout, commandOutcome_of_emits hem]
    exact ⟨rfl, rfl, rfl⟩
  · obtain ⟨hcmd, hdedup⟩ :=
      decodeFrame_keeps_output (hout ▸ commandOutcome_of_not_emits hem)
    exact ⟨sameCommand_trans hu.command hcmd, sameDedup_trans hu.dedup hdedup⟩
  · rw [hstatus, commandOutcome_validBytes, if_pos ht]
  · rw [hstatus, commandOutcome_validBytes, if_neg (not_not.mpr ht), if_pos ha]
  · rw [hstatus, commandOutcome_validBytes, if_neg (not_not.mpr ht), if_neg (not_not.mpr ha),
      if_pos hs]

end Sys2Proof.Machine
end

section
/-! PROOFS. The statements of the family 40_capture.md: the ring index functions, and the three cases of
EDGE. -/

namespace Sys2Proof.Machine

section RingIndices

/-- `distance` with the subtraction taken in the integers, as R142 writes it. -/
theorem distance_int (a b : Slot) : (distance a b : Int) = ((b.val : Int) - a.val + 1000) % 1000 := by
  rw [distance_val]
  omega

theorem distance_previous (a : Slot) : distance a (previous a) = 999 := by
  rw [distance_val, previous_val]
  omega

theorem next_of_previous (i : Slot) : next (previous i) = i := by
  apply Fin.ext
  rw [next_val, previous_val]
  omega

theorem distance_next (a : Slot) : distance a (next a) = 1 := by
  rw [distance_val, next_val]
  omega

theorem distance_self (a : Slot) : distance a a = 0 := by
  rw [distance_val]
  omega

/-- There and back again is once round the ring. -/
theorem distance_add_distance {a b : Slot} (h : a ≠ b) : distance a b + distance b a = 1000 := by
  have hval : a.val ≠ b.val := Fin.val_ne_of_ne h
  rw [distance_val, distance_val]
  omega

theorem distance_lt (a b : Slot) : distance a b < 1000 := Nat.mod_lt _ (by decide)

end RingIndices

/-- Settles O9: each law is arithmetic modulo 1000 on the values of the slots. -/
theorem ringIndexLaws : Obligations.RingIndexLaws := by
  unfold Obligations.RingIndexLaws
  refine ⟨fun i => ⟨rfl, rfl⟩, distance_int, distance_previous, next_of_previous, previous_of_next,
    distance_next, fun a b => ?_, fun a b => (distance_lt a b).le⟩
  split
  · next h => rw [h, distance_self]
  · next h => exact distance_add_distance h

section EdgeCases

variable {s : State}

/-- EDGE while READY (R145). -/
theorem execEdge_ready (lvl : Bool) (dur : Dur) (hr : s.ready = true) :
    execEdge lvl dur s = .next s := by
  rw [execEdge, if_pos hr]

/-- EDGE of a glitch (R146). -/
theorem execEdge_fold (lvl : Bool) {dur : Dur} (hr : s.ready = false) (hd : dur.toNat ≤ 50) :
    execEdge lvl dur s = .next (s.fold dur) := by
  simp [execEdge, hr, Sys2Proof.glitch, hd]

theorem edgeConditions_ready (lvl : Bool) (dur : Dur) (hr : s.ready = true) :
    edgeConditions lvl dur s = [] := by
  rw [edgeConditions, if_pos hr]

theorem edgeConditions_fold (lvl : Bool) {dur : Dur} (hr : s.ready = false) (hd : dur.toNat ≤ 50) :
    edgeConditions lvl dur s = [.glitch] := by
  simp [edgeConditions, hr, Sys2Proof.glitch, hd]

end EdgeCases

/-- Settles O10: READY is the first thing EDGE asks. -/
theorem edgeWhileReadyIsDropped : Obligations.EdgeWhileReadyIsDropped := by
  unfold Obligations.EdgeWhileReadyIsDropped
  intro lvl dur s hr
  exact ⟨execEdge_ready lvl dur hr, edgeConditions_ready lvl dur hr, by simp [State.captureEn, hr]⟩

/-- Settles O11: EDGE is then the fold access, which writes the most recent entry's duration alone. -/
theorem glitchEdgeFoldsIntoTheLastEntry : Obligations.GlitchEdgeFoldsIntoTheLastEntry := by
  unfold Obligations.GlitchEdgeFoldsIntoTheLastEntry
  intro lvl dur s hr hd hwf
  have hfolded := fold_read_previous dur hwf
  obtain ⟨hcommand, hdedup, hstatus, hown⟩ := sameOutput_fold s dur
  refine ⟨s.fold dur, execEdge_fold lvl hr hd, ?_, ?_, fun j hj => fold_read_other dur hwf hj,
    State.fold_wr s dur, ⟨rfl, rfl, rfl, rfl⟩, hcommand, hdedup, hstatus, hown,
    edgeConditions_fold lvl hr hd⟩
  · rw [hfolded, BitVec.toNat_add]
  · rw [hfolded]

/-- Settles O12: the state SyncStep runs on is the one the append access leaves. -/
theorem longEdgeIsAppended : Obligations.LongEdgeIsAppended := by
  unfold Obligations.LongEdgeIsAppended
  intro lvl dur s hr hd hwf
  obtain ⟨hcommand, hdedup, hstatus, hown⟩ : SameOutput s (s.append { dur := dur, lvl := lvl }) :=
    sameOutput_refl s
  exact ⟨s.append { dur := dur, lvl := lvl }, execEdge_append hr hd, append_read_self hwf,
    fun j hj => append_read_other _ hwf hj, next_val s.wr, ⟨rfl, rfl, rfl, rfl⟩, hcommand, hdedup,
    hstatus, hown, syncStep_ring s.wr _, syncStep_wr s.wr _⟩

end Sys2Proof.Machine
end

section
/-! PROOFS. The statements of the family 41_sync.md: the qualifying pulse, the three phases of SyncStep as
an EDGE runs it, SYNC_RESET, and the frame slice at Ready. -/

namespace Sys2Proof.Machine

section QualifyingPulse

/-- The test on the entry at `c` and the one before it, in numbers. -/
theorem qual_iff (s : State) (c : Slot) :
    s.qual c = true ↔
      (s.ring.read c).lvl = false
        ∧ 2750 ≤ (s.ring.read c).dur.toNat ∧ (s.ring.read c).dur.toNat ≤ 3650
        ∧ (s.ring.read (previous c)).lvl = true
        ∧ 200 < (s.ring.read (previous c)).dur.toNat
        ∧ (s.ring.read (previous c)).dur.toNat < 600 := by
  rw [State.qual, Bool.and_eq_true, Entry.isSyncLow_iff, Entry.isSyncHigh_iff, and_assoc, and_assoc]

/-- A pulse that completes no sync block does not qualify once it is appended. -/
theorem qual_append_eq_false {s : State} {lvl : Bool} {dur : Dur} (hwf : s.ring.wf = true)
    (hp : ¬SyncPulse s lvl dur) : (s.append { dur := dur, lvl := lvl }).qual s.wr = false :=
  Bool.eq_false_iff.mpr (mt (qual_append_iff hwf).mp hp)

end QualifyingPulse

/-- Settles O15: the test is the two pulse tests, whose bounds are these numbers. -/
theorem qualifyingSyncPulse : Obligations.QualifyingSyncPulse := by
  unfold Obligations.QualifyingSyncPulse
  exact qual_iff

section SyncStepEquations

variable {s : State} {c : Slot}

/-- A misalignment without SYNC_RESTART (R174, R176): back to Idle. -/
theorem syncStep_of_misaligned (h1 : 1 ≤ s.bc.toNat) (h9 : s.bc.toNat ≤ 9) (hq : s.qual c = true)
    (hd : distance s.lbi c ≠ 21) (hp : s.params.syncRestart = false) :
    syncStep c s = s.clearSync := by
  have h0 : s.bc.toNat ≠ 0 := by omega
  have hlt : s.bc.toNat < 10 := by omega
  simp [syncStep, accumStep, restartStep, nBlocks, blockDist, h0, hlt, hq, hd, hp]

/-- A misalignment with SYNC_RESTART (R174, R176): the pulse is block 1 of a new frame. -/
theorem syncStep_of_misaligned_restart (h1 : 1 ≤ s.bc.toNat) (h9 : s.bc.toNat ≤ 9)
    (hq : s.qual c = true) (hd : distance s.lbi c ≠ 21) (hp : s.params.syncRestart = true) :
    syncStep c s = s.clearSync.firstBlock c := by
  have h0 : s.bc.toNat ≠ 0 := by omega
  have hlt : s.bc.toNat < 10 := by omega
  simp [syncStep, accumStep, restartStep, nBlocks, blockDist, h0, hlt, hq, hd, hp]

/-- Armed, an entry that is not high at distance 20 changes nothing (R178). -/
theorem syncStep_of_not_ready_edge (h10 : s.bc.toNat = 10)
    (h : ¬(distance s.lbi c = 20 ∧ (s.ring.read c).lvl = true)) : syncStep c s = s := by
  by_cases hd : distance s.lbi c = 20
  · have hl : (s.ring.read c).lvl = false := Bool.eq_false_iff.mpr fun hl => h ⟨hd, hl⟩
    simp [syncStep, armedStep, nBlocks, h10, hl]
  · exact syncStep_of_early h10 hd

/-- SyncStep does not write READY before the tenth block. -/
theorem syncStep_ready_of_le_nine (h9 : s.bc.toNat ≤ 9) : (syncStep c s).ready = s.ready := by
  obtain he | ⟨-, -, he⟩ | ⟨-, -, -, -, he⟩ | ⟨-, -, -, -, -, he⟩ | ⟨-, -, -, -, -, he⟩
    | ⟨h10, -⟩ | ⟨h11, -⟩ := syncStep_cases c s
  · rw [he]
  · rw [he, State.firstBlock_ready]
  · rw [he, State.acceptBlock_ready]
  · rw [he, State.clearSync_ready]
  · rw [he, State.firstBlock_ready, State.clearSync_ready]
  · omega
  · omega

end SyncStepEquations

/-- The one condition an appended EDGE can meet (R322). -/
theorem edgeConditions_append {s : State} {lvl : Bool} {dur : Dur} (hr : s.ready = false)
    (hdur : 50 < dur.toNat) (hwf : s.ring.wf = true) :
    edgeConditions lvl dur s =
      if (1 ≤ s.bc.toNat ∧ s.bc.toNat ≤ 9) ∧ SyncPulse s lvl dur ∧ distance s.lbi s.wr ≠ 21 then
        [.syncMisalignment]
      else [] := by
  have hcount : (s.bc.toNat ≠ 0 ∧ s.bc.toNat < 10) ↔ 1 ≤ s.bc.toNat ∧ s.bc.toNat ≤ 9 := by omega
  have hlong : ¬dur.toNat ≤ 50 := by omega
  simp only [edgeConditions, hr, Sys2Proof.glitch, hlong, nBlocks, blockDist, qual_append_iff hwf,
    ← hcount, and_assoc, if_false, Bool.false_eq_true]

/-- Settles O16: the appended pulse is taken as block 1 if it qualifies, and the state is kept if not. -/
theorem idleEdgeLocksOnASyncPulse : Obligations.IdleEdgeLocksOnASyncPulse := by
  unfold Obligations.IdleEdgeLocksOnASyncPulse
  intro lvl dur s ⟨hr, hdur⟩ hwf h0
  refine ⟨_, execEdge_append hr hdur, ?_, fun hp => ?_, fun hp => ?_⟩
  · show edgeConditions lvl dur s = []
    rw [edgeConditions_append hr hdur hwf, if_neg (by omega)]
  · rw [syncStep_of_idle (s := s.append _) h0 ((qual_append_iff hwf).mpr hp)]
    exact ⟨rfl, rfl, rfl, rfl⟩
  · rw [syncStep_of_not_qual (s := s.append _) (h0.trans_le (Nat.zero_le 9)) (qual_append_eq_false hwf hp)]
    exact ⟨rfl, rfl, rfl, rfl⟩

/-- Settles O17: a qualifying pulse is the next block at distance 21, else a misalignment, which clears
the detector and restarts it where SYNC_RESTART says so. -/
theorem accumulatingEdgeCountsOrMisaligns : Obligations.AccumulatingEdgeCountsOrMisaligns := by
  unfold Obligations.AccumulatingEdgeCountsOrMisaligns
  intro lvl dur s ⟨hr, hdur⟩ hwf h1 h9
  have hcond : conditionsOf (.edge lvl dur) s = _ := edgeConditions_append hr hdur hwf
  refine ⟨_, execEdge_append hr hdur, syncStep_ready_of_le_nine h9, fun hp hd => ?_,
    fun hp hd => ?_, fun hp => ?_⟩
  · have hq := (qual_append_iff hwf).mpr hp
    rw [syncStep_of_next_block (s := s.append _) h1 h9 hq hd, hcond, if_neg (fun ⟨_, _, hne⟩ => hne hd)]
    exact ⟨rfl, blockCount_succ h9, rfl, rfl⟩
  · have hq := (qual_append_iff hwf).mpr hp
    rw [hcond, if_pos ⟨⟨h1, h9⟩, hp, hd⟩]
    refine ⟨rfl, fun hparam => ?_, fun hparam => ?_⟩
    · rw [syncStep_of_misaligned (s := s.append _) h1 h9 hq hd hparam]
      exact ⟨rfl, rfl, rfl⟩
    · rw [syncStep_of_misaligned_restart (s := s.append _) h1 h9 hq hd hparam]
      exact ⟨rfl, rfl, rfl⟩
  · rw [syncStep_of_not_qual (s := s.append _) h9 (qual_append_eq_false hwf hp), hcond,
      if_neg (fun ⟨_, hpulse, _⟩ => hp hpulse)]
    exact ⟨⟨rfl, rfl, rfl, rfl⟩, rfl⟩

/-- Settles O18: Ready is declared on the entry R177 names, and any other leaves the detector alone. -/
theorem armedEdgeDeclaresReady : Obligations.ArmedEdgeDeclaresReady := by
  unfold Obligations.ArmedEdgeDeclaresReady
  intro lvl dur s ⟨hr, hdur⟩ hwf h10
  have hcond : conditionsOf (.edge lvl dur) s = [] := by
    show edgeConditions lvl dur s = []
    rw [edgeConditions_append hr hdur hwf, if_neg (by omega)]
  have hread := append_read_self (e := ⟨dur, lvl⟩) hwf
  refine ⟨_, execEdge_append hr hdur, ?_⟩
  by_cases h : distance s.lbi s.wr = 20 ∧ lvl = true
  · rw [syncStep_of_ready_edge (s := s.append _) h10 h.1 (by rw [hread]; exact h.2)]
    exact ⟨rfl, rfl, rfl, iff_of_true rfl h, hcond⟩
  · rw [syncStep_of_not_ready_edge (s := s.append _) h10 (by rw [hread]; exact h)]
    exact ⟨rfl, rfl, rfl, iff_of_false (by simp [hr]) h, hcond⟩

/-- Clearing a detector that is clear already changes nothing. -/
theorem clear_eq_self {s : State} (hb : s.bc.toNat = 0) (hs : s.start.val = 0) (hl : s.lbi.val = 0)
    (hr : s.ready = false) : s.clearSync.clearReady = s := by
  have hb' : s.bc = 0 := BitVec.eq_of_toNat_eq hb
  have hs' : s.start = 0 := Fin.ext hs
  have hl' : s.lbi = 0 := Fin.ext hl
  cases s
  cases hb'
  cases hs'
  cases hl'
  cases hr
  rfl

/-- Settles O19: the detector and READY are cleared, every other field is as it was. -/
theorem syncResetReturnsToIdle : Obligations.SyncResetReturnsToIdle := by
  unfold Obligations.SyncResetReturnsToIdle
  intro s
  obtain ⟨hcommand, hdedup, hstatus, hown⟩ := sameOutput_clear s
  exact ⟨s.clearSync.clearReady, rfl, rfl, rfl, rfl, rfl, ⟨fun _ => rfl, rfl⟩, hcommand, hdedup,
    hstatus, hown, phase_of_idle rfl rfl, rfl, rfl, rfl, by decide, clear_eq_self⟩

section Slice

variable {s : State}

/-- At Ready the slice ends 218 slots after START: nine blocks of 22 slots, and 20 more (R181). -/
theorem sliceEnd_of_ready (h : s.Inv) (hr : s.ready = true) : s.sliceEnd = slotAfter s.start 218 := by
  obtain ⟨-, hready, -, hlbi, -⟩ := h
  have h10 := hready hr
  have hval := hlbi (by omega)
  apply Fin.ext
  rw [State.sliceEnd, slotAfter_val, slotAfter_val, readyDist]
  omega

theorem slice_of_ready (h : s.Inv) (hr : s.ready = true) : s.slice = slotRun s.start 218 := by
  have hd : distance s.start (slotAfter s.start 218) = 218 := by
    rw [distance_val, slotAfter_val]
    omega
  rw [State.slice, sliceEnd_of_ready h hr, hd]

theorem sliceEnd_not_mem_slice (h : s.Inv) (hr : s.ready = true) : s.sliceEnd ∉ s.slice := by
  rw [sliceEnd_of_ready h hr, slice_of_ready h hr, mem_slotRun]
  rintro ⟨k, hk, he⟩
  have := slotAfter_inj (by decide) (by omega) he
  omega

/-- Every pulse classifies as one symbol or two (R202). -/
theorem symbolsOf_length (es : List Entry) :
    es.length ≤ (symbolsOf es).length ∧ (symbolsOf es).length ≤ 2 * es.length := by
  induction es with
  | nil => exact ⟨le_rfl, le_rfl⟩
  | cons e es ih =>
    have := classify_length e
    simp only [symbolsOf, List.length_append, List.length_cons]
    omega

end Slice

/-- Settles O25: the slice is a run of 218 slots, its end the slot after them, and each of its entries
gives one symbol or two. -/
theorem frameSliceHas218Entries : Obligations.FrameSliceHas218Entries := by
  unfold Obligations.FrameSliceHas218Entries
  intro s h hr
  have hlen : s.frameEntries.length = 218 := by
    rw [State.frameEntries, List.length_map, slice_of_ready h hr, slotRun_length]
  have hsym := symbolsOf_length s.frameEntries
  rw [hlen] at hsym
  refine ⟨?_, fun k hk => ?_, rfl, ?_, sliceEnd_not_mem_slice h hr, hsym⟩
  · rw [slice_of_ready h hr, slotRun_length]
  · rw [slice_of_ready h hr, slotRun_getElem? s.start 218 k hk, Option.map_some, slotAfter_val]
  · rw [sliceEnd_of_ready h hr, slotAfter_val]

/-- An EDGE that declares Ready appends a high entry at distance 20 and writes READY besides (R177). -/
theorem edge_sets_ready {lvl : Bool} {dur : Dur} {s t : State} (h : s.Inv)
    (he : exec (.edge lvl dur) s = .next t) (hs : s.ready = false) (ht : t.ready = true) :
    distance s.lbi s.wr = 20 ∧ lvl = true ∧ t = (s.append { dur := dur, lvl := lvl }).declareReady := by
  obtain ⟨hwf, -, -, -, hle⟩ := h
  have hne : t.ready ≠ s.ready := by simp [hs, ht]
  obtain ⟨-, hn⟩ | ⟨-, -, hn⟩ | ⟨-, -, hn⟩ := execEdge_cases lvl dur s
  all_goals obtain rfl := Host.Outcome.next.inj (hn.symm.trans he)
  · exact absurd rfl hne
  · exact absurd rfl hne
  · obtain ⟨h10, hl⟩ := syncStep_sets_ready (s := s.append ⟨dur, lvl⟩) hle hs ht
    have hd : distance s.lbi s.wr = 20 :=
      by_contra fun hd => hne (by rw [syncStep_of_early h10 hd, State.append_ready])
    exact ⟨hd, by rwa [append_read_self hwf] at hl, syncStep_of_ready_edge h10 hd hl⟩

/-- Settles O26: the entry stands 20 slots after LBI, where the slice ends, and the append wrote no other
slot. -/
theorem sliceEndsAtTheReadyEntry : Obligations.SliceEndsAtTheReadyEntry := by
  unfold Obligations.SliceEndsAtTheReadyEntry
  intro lvl dur s t h he hs ht
  have htInv : t.Inv := exec_keeps_inv h he
  obtain ⟨hd, hl, rfl⟩ := edge_sets_ready h he hs ht
  obtain ⟨hwf, -⟩ := h
  have hend : (s.append ⟨dur, lvl⟩).declareReady.sliceEnd = s.wr := (eq_slotAfter_of_distance hd).symm
  refine ⟨hend, ?_, next_val s.wr, append_read_self hwf, hl, fun j hj => ?_⟩
  · have hstart := congrArg Fin.val (hend.symm.trans (sliceEnd_of_ready htInv ht))
    rw [slotAfter_val] at hstart
    omega
  · exact append_read_other _ hwf fun hj' => sliceEnd_not_mem_slice htInv ht (hend ▸ hj' ▸ hj)

end Sys2Proof.Machine
end

section
/-! PROOFS. The statements of the family 42_symbol.md: the classifier's bands and SymbolError, the sync
block as a sync token, and the slots DECODE reads. -/

namespace Sys2Proof.Machine

section Classifier

variable {e : Entry}

@[simp] theorem levelSymbol_eq_one_iff (lvl : Bool) : levelSymbol lvl = .one ↔ lvl = true := by
  cases lvl <;> simp [levelSymbol]

@[simp] theorem levelSymbol_ne_blockGap (lvl : Bool) : levelSymbol lvl ≠ .blockGap := by
  cases lvl <;> simp [levelSymbol]

@[simp] theorem error_ne_levelSymbol (lvl : Bool) : Symbol.error ≠ levelSymbol lvl := by
  cases lvl <;> simp [levelSymbol]

theorem classify_of_single (h : 200 < e.dur.toNat ∧ e.dur.toNat < 600) :
    classify e = [levelSymbol e.lvl] := by
  rw [classify_eq, if_pos h]

theorem classify_of_double (h : 600 < e.dur.toNat ∧ e.dur.toNat < 1000) :
    classify e = [levelSymbol e.lvl, levelSymbol e.lvl] := by
  rw [classify_eq, if_neg (by omega), if_pos h]

theorem classify_of_blockGap (h : 2750 ≤ e.dur.toNat ∧ e.dur.toNat ≤ 3650) :
    classify e = [.blockGap] := by
  rw [classify_eq, if_neg (by omega), if_neg (by omega), if_pos h]

theorem classify_of_messageGap (h : 3650 < e.dur.toNat) : classify e = [.messageGap] := by
  rw [classify_eq, if_neg (by omega), if_neg (by omega), if_neg (by omega), if_pos h]

theorem classify_of_outside_bands (h : e.dur.toNat ≤ 200 ∨ e.dur.toNat = 600
    ∨ (1000 ≤ e.dur.toNat ∧ e.dur.toNat < 2750)) : classify e = [.error] := by
  rw [classify_eq, if_neg (by omega), if_neg (by omega), if_neg (by omega), if_neg (by omega)]

/-- The five results of R200; `B` and the single symbol, which R203 speaks of, with their durations. -/
theorem classify_cases (e : Entry) :
    (classify e = [levelSymbol e.lvl] ∧ 200 < e.dur.toNat ∧ e.dur.toNat < 600)
    ∨ classify e = [levelSymbol e.lvl, levelSymbol e.lvl]
    ∨ (classify e = [.blockGap] ∧ 2750 ≤ e.dur.toNat ∧ e.dur.toNat ≤ 3650)
    ∨ classify e = [.messageGap]
    ∨ classify e = [.error] := by
  rw [classify_eq]
  split_ifs with hsingle hdouble hblock hmessage
  · exact .inl ⟨rfl, hsingle⟩
  · exact .inr (.inl rfl)
  · exact .inr (.inr (.inl ⟨rfl, hblock⟩))
  · exact .inr (.inr (.inr (.inl rfl)))
  · exact .inr (.inr (.inr (.inr rfl)))

theorem classify_eq_blockGap_iff (e : Entry) :
    classify e = [.blockGap] ↔ 2750 ≤ e.dur.toNat ∧ e.dur.toNat ≤ 3650 := by
  refine ⟨fun h => ?_, classify_of_blockGap⟩
  obtain ⟨hc, -⟩ | hc | ⟨-, hd⟩ | hc | hc := classify_cases e
  · simp [hc] at h
  · simp [hc] at h
  · exact hd
  · simp [hc] at h
  · simp [hc] at h

theorem classify_eq_one_iff (e : Entry) :
    classify e = [.one] ↔ e.lvl = true ∧ 200 < e.dur.toNat ∧ e.dur.toNat < 600 := by
  refine ⟨fun h => ?_, fun ⟨hl, hd⟩ => ?_⟩
  · obtain ⟨hc, hd⟩ | hc | ⟨hc, -⟩ | hc | hc := classify_cases e
    · exact ⟨by simpa [hc] using h, hd⟩
    · simp [hc] at h
    · simp [hc] at h
    · simp [hc] at h
    · simp [hc] at h
  · rw [classify_of_single hd, (levelSymbol_eq_one_iff e.lvl).mpr hl]

/-- `E` comes alone. -/
theorem error_mem_classify_iff (e : Entry) : Symbol.error ∈ classify e ↔ classify e = [.error] := by
  refine ⟨fun h => ?_, fun h => h ▸ List.mem_singleton_self _⟩
  obtain ⟨hc, -⟩ | hc | ⟨hc, -⟩ | hc | hc := classify_cases e
  · simp [hc] at h
  · simp [hc] at h
  · simp [hc] at h
  · simp [hc] at h
  · exact hc

end Classifier

section SymbolError

theorem error_mem_triBitString_iff (s : State) :
    Symbol.error ∈ s.triBitString ↔ ∃ j ∈ s.slice, classify (s.ring.read j) = [.error] := by
  simp [State.triBitString, State.frameEntries, symbolsOf_eq_flatten, error_mem_classify_iff]

theorem symbolError_not_mem_outcomeConditions (d : DecStatus) :
    Condition.symbolError ∉ outcomeConditions d := by
  cases d <;> simp [outcomeConditions]

/-- Of the conditions of a DECODE, SymbolError is the string's; the Words, the bytes and the outcome
raise others (R323 to R327). -/
theorem symbolError_mem_decodeConditions_iff {s : State} (hen : s.decodeEnabled = true) :
    Condition.symbolError ∈ decodeConditions s ↔ Symbol.error ∈ s.triBitString := by
  simp [decodeConditions, hen, symbolError_not_mem_outcomeConditions]

end SymbolError

/-- Settles O23: the bands are the branches of the classifier, and the tri-bit string has an `E` exactly
where an entry of the slice gives one. -/
theorem classifierBands : Obligations.ClassifierBands := by
  unfold Obligations.ClassifierBands
  refine ⟨fun e => ⟨classify_of_single, classify_of_double, classify_of_blockGap,
    classify_of_messageGap, classify_of_outside_bands⟩, fun s hen => ?_⟩
  exact (symbolError_mem_decodeConditions_iff hen).trans (error_mem_triBitString_iff s)

/-- Settles O24: the bounds of the two pulse tests (R170) are those of `B` and of a single symbol. -/
theorem syncBlockIsASyncToken : Obligations.SyncBlockIsASyncToken := by
  unfold Obligations.SyncBlockIsASyncToken
  intro s c
  rw [qual_iff, classify_eq_blockGap_iff, classify_eq_one_iff]
  constructor
  · rintro ⟨hlow, hmin, hmax, hhigh⟩
    exact ⟨⟨hmin, hmax⟩, hlow, hhigh⟩
  · rintro ⟨⟨hmin, hmax⟩, hlow, hhigh⟩
    exact ⟨hlow, hmin, hmax, hhigh⟩

section OtherRing

variable {s : State} {r : Memory}

/-- The command stage neither reads nor writes the ring. -/
theorem commandStage_with_ring (l : List (Option Byte)) (s : State) (r : Memory) :
    commandStage l { s with ring := r } = { commandStage l s with ring := r } := by
  have hout : commandOutcome { s with ring := r } l = commandOutcome s l :=
    commandOutcome_congr rfl ⟨rfl, rfl, rfl, rfl, rfl⟩ l
  rcases h : commandOutcome s l with ⟨d, _ | c⟩
  · rw [commandStage_none h, commandStage_none (hout.trans h)]
  · rw [commandStage_some h, commandStage_some (hout.trans h)]
    rfl

/-- The slice is chosen by START and LBI, so a ring that agrees on it has the same string (R202). -/
theorem triBitString_with_ring (h : ∀ j ∈ s.slice, r.read j = s.ring.read j) :
    State.triBitString { s with ring := r } = s.triBitString :=
  congrArg symbolsOf (List.map_congr_left h)

/-- DECODE sees the ring through the tri-bit string alone. -/
theorem decodeFrame_with_ring (h : State.triBitString { s with ring := r } = s.triBitString) :
    decodeFrame { s with ring := r } = { decodeFrame s with ring := r } := by
  have hwords : State.frameWords { s with ring := r } = s.frameWords := congrArg split h
  have hbytes : State.frameBytes { s with ring := r } = s.frameBytes :=
    congrArg (fun W => (merge W).1) hwords
  rw [decodeFrame, hwords, hbytes]
  exact congrArg (fun u => u.clearSync.clearReady) (commandStage_with_ring s.frameBytes
    (s.recordDetail s.frameWords s.frameBytes (merge s.frameWords).2) r)

end OtherRing

/-- Settles O27: both runs take the DECODE, and the other ring gives it the same string. -/
theorem decodeReadsTheSliceOnly : Obligations.DecodeReadsTheSliceOnly := by
  unfold Obligations.DecodeReadsTheSliceOnly
  intro s r hen hagree
  refine ⟨decodeFrame s, execDecode_of_enabled hen, ?_⟩
  rw [← decodeFrame_with_ring (triBitString_with_ring hagree)]
  exact execDecode_of_enabled hen

end Sys2Proof.Machine
end

section
/-! PROOFS. The statements of the family 43_frame.md: the leftmost sync token, the triplets a raw segment
decodes by, and the cut of the tri-bit string at its tokens. -/

namespace Sys2Proof.Machine

section TokenSearch

/-- The search answers an offset exactly where the leftmost token stands. -/
theorem tokenOffset_some_iff (S : List Symbol) (k : Nat) :
    tokenOffset S = some k ↔ IsToken S k ∧ ∀ u, u < k → ¬IsToken S u := by
  refine ⟨tokenOffset_some, fun ⟨htok, hmin⟩ => ?_⟩
  cases hj : tokenOffset S with
  | none => exact absurd htok ((tokenOffset_none_iff S).mp hj k)
  | some j =>
    obtain ⟨hjtok, hjmin⟩ := tokenOffset_some hj
    obtain hlt | rfl | hgt := Nat.lt_trichotomy j k
    · exact absurd hjtok (hmin j hlt)
    · rfl
    · exact absurd htok (hjmin k hgt)

/-- `findToken` answers the least token at or after `pos` (R220). -/
theorem findToken_some_iff (S : List Symbol) (pos t : Nat) :
    findToken S pos = some t ↔
      pos ≤ t ∧ IsToken S t ∧ ∀ u, pos ≤ u → u < t → ¬IsToken S u := by
  rw [findToken, Option.map_eq_some_iff]
  constructor
  · rintro ⟨k, hk, rfl⟩
    obtain ⟨htok, hmin⟩ := (tokenOffset_some_iff _ k).mp hk
    refine ⟨Nat.le_add_right pos k, (isToken_drop S pos k).mp htok, fun u hle hlt hu => ?_⟩
    obtain ⟨j, rfl⟩ := Nat.exists_eq_add_of_le hle
    exact hmin j (Nat.lt_of_add_lt_add_left hlt) ((isToken_drop S pos j).mpr hu)
  · rintro ⟨hle, htok, hmin⟩
    obtain ⟨k, rfl⟩ := Nat.exists_eq_add_of_le hle
    refine ⟨k, (tokenOffset_some_iff _ k).mpr ⟨(isToken_drop S pos k).mpr htok, fun u hu h => ?_⟩, rfl⟩
    exact hmin (pos + u) (Nat.le_add_right pos u) (Nat.add_lt_add_left hu pos)
      ((isToken_drop S pos u).mp h)

/-- `findToken` answers none exactly where no token stands at or after `pos` (R220). -/
theorem findToken_none_iff (S : List Symbol) (pos : Nat) :
    findToken S pos = none ↔ ∀ t, pos ≤ t → ¬IsToken S t := by
  rw [findToken, Option.map_eq_none_iff, tokenOffset_none_iff]
  constructor
  · intro h t hle
    obtain ⟨k, rfl⟩ := Nat.exists_eq_add_of_le hle
    exact mt (isToken_drop S pos k).mpr (h k)
  · exact fun h k => mt (isToken_drop S pos k).mp (h (pos + k) (Nat.le_add_right pos k))

end TokenSearch

/-- Settles O28: the search is that of the leftmost token in what is left of the string at `pos`. -/
theorem findTokenIsLeftmost : Obligations.FindTokenIsLeftmost := by
  unfold Obligations.FindTokenIsLeftmost
  exact fun S pos _ => ⟨findToken_some_iff S pos, findToken_none_iff S pos⟩

section Words

theorem flatMap_triBitSymbols_length (ts : List Bool) :
    (ts.flatMap triBitSymbols).length = 3 * ts.length := by
  simp [List.length_flatMap, Nat.mul_comm]

/-- A string is a row of triplets exactly when it has their length and each of them at its fixed position
(R224). -/
theorem eq_flatMap_triBitSymbols_iff (seg : List Symbol) (ts : List Bool) :
    seg = ts.flatMap triBitSymbols ↔
      seg.length = 3 * ts.length
        ∧ ∀ k (h : k < ts.length), (seg.drop (3 * k)).take 3 = triBitSymbols ts[k] := by
  induction ts generalizing seg with
  | nil => simp
  | cons t ts ih =>
    have hhead : seg = (t :: ts).flatMap triBitSymbols ↔
        seg.take 3 = triBitSymbols t ∧ seg.drop 3 = ts.flatMap triBitSymbols := by
      rw [List.flatMap_cons]
      constructor
      · rintro rfl
        exact ⟨List.take_left' (triBitSymbols_length t), List.drop_left' (triBitSymbols_length t)⟩
      · rintro ⟨htake, hdrop⟩
        rw [← htake, ← hdrop, List.take_append_drop]
    rw [hhead, ih]
    constructor
    · rintro ⟨hfirst, hlen, hrest⟩
      have htake := congrArg List.length hfirst
      rw [triBitSymbols_length, List.length_take] at htake
      rw [List.length_drop] at hlen
      refine ⟨by rw [List.length_cons]; omega, fun k hk => ?_⟩
      cases k with
      | zero => exact hfirst
      | succ k =>
        have htriplet := hrest k (Nat.lt_of_succ_lt_succ hk)
        rwa [List.drop_drop, Nat.add_comm] at htriplet
    · rintro ⟨hlen, htriplet⟩
      refine ⟨htriplet 0 (Nat.zero_lt_succ _), ?_, fun k hk => ?_⟩
      · rw [List.length_drop, hlen, List.length_cons]
        omega
      · rw [List.drop_drop, Nat.add_comm]
        exact htriplet (k + 1) (Nat.succ_lt_succ hk)

theorem txBits_getElem (b : Byte) {k : Nat} (h : k < 8) : (txBits b)[k]'h = b.getLsbD k := by
  match k, h with
  | 0, _ | 1, _ | 2, _ | 3, _ | 4, _ | 5, _ | 6, _ | 7, _ => rfl

/-- Eight bits are those of the byte they weigh (R225). -/
theorem txBits_ofNat_bitsToNat {ts : List Bool} (h : ts.length = 8) :
    txBits (BitVec.ofNat 8 (bitsToNat ts)) = ts := by
  refine List.ext_getElem h.symm fun i (hi : i < 8) hi' => ?_
  rw [txBits_getElem _ hi, BitVec.getLsbD_ofNat, decide_eq_true hi, Bool.true_and, bitsToNat_testBit,
    List.getD_eq_getElem _ _ hi']

/-- A raw segment decodes to a byte exactly when it is the byte's eight triplets and six symbols more
(R222 to R225). -/
theorem decodeWord_some_iff (raw : List Symbol) (b : Byte) :
    decodeWord raw = some b ↔
      raw.length = 30 ∧ raw.take 24 = (txBits b).flatMap triBitSymbols := by
  constructor
  · intro h
    simp only [decodeWord, trailSyms, wordSyms, Option.ite_none_left_eq_some, not_or, not_not,
      List.length_take] at h
    obtain ⟨hlong, ⟨hlen, -⟩, hbits⟩ := h
    have h30 : raw.length = 30 := by omega
    obtain ⟨ts, hts, rfl⟩ := Option.map_eq_some_iff.mp hbits
    rw [h30, tripletBits_some_iff] at hts
    have h8 : ts.length = 8 := by
      have hsum := congrArg List.length hts
      rw [flatMap_triBitSymbols_length, List.length_take] at hsum
      omega
    exact ⟨h30, (txBits_ofNat_bitsToNat h8).symm ▸ hts⟩
  · rintro ⟨hlen, hseg⟩
    rw [← List.take_append_drop 24 raw, hseg]
    exact decodeWord_triplets b (by rw [List.length_drop, hlen])

/-- The triplets of the first 24 symbols are those of the whole segment. -/
theorem take_24_triplet (raw : List Symbol) {k : Nat} (h : k < 8) :
    ((raw.take 24).drop (3 * k)).take 3 = (raw.drop (3 * k)).take 3 := by
  rw [List.drop_take, List.take_take, Nat.min_eq_left (by omega)]

end Words

/-- Settles O29: the first 24 symbols are the byte's row of triplets. -/
theorem wordDecodesExactlyItsTriplets : Obligations.WordDecodesExactlyItsTriplets := by
  unfold Obligations.WordDecodesExactlyItsTriplets
  intro raw b
  rw [decodeWord_some_iff, eq_flatMap_triBitSymbols_iff]
  refine and_congr_right fun hlen => ?_
  have h24 : (raw.take 24).length = 3 * (txBits b).length := by
    rw [List.length_take, hlen]
    rfl
  rw [and_iff_right h24]
  refine forall₂_congr fun k hk => ?_
  rw [take_24_triplet raw hk, txBits_getElem b hk]

/-- Settles O30: the cut of a string of segments at its tokens. -/
theorem splitCutsAtSyncTokens : Obligations.SplitCutsAtSyncTokens := by
  unfold Obligations.SplitCutsAtSyncTokens
  exact fun raws => split_intercalate

end Sys2Proof.Machine
end

section
/-! PROOFS. The statements of the family 44_redundancy.md: what two copies of a byte resolve to, and how
the ten Words are paired. -/

namespace Sys2Proof.Machine

section Resolve

@[simp] theorem resolve_none_left (b : Option Byte) : resolve none b = b := by cases b <;> rfl

@[simp] theorem resolve_none_right (a : Option Byte) : resolve a none = a := by cases a <;> rfl

@[simp] theorem resolve_self (a : Option Byte) : resolve a a = a := by
  cases a with
  | none => rfl
  | some a => exact if_pos rfl

theorem resolve_of_ne {a b : Byte} (h : a ≠ b) : resolve (some a) (some b) = none := if_neg h

theorem resolve_comm (a b : Option Byte) : resolve a b = resolve b a := by
  cases a with
  | none => rw [resolve_none_left, resolve_none_right]
  | some a =>
    cases b with
    | none => rw [resolve_none_left, resolve_none_right]
    | some b =>
      obtain rfl | hne := eq_or_ne a b
      · rfl
      · rw [resolve_of_ne hne, resolve_of_ne hne.symm]

end Resolve

section Pairing
variable {W : List (Option Byte)}

/-- The heuristic of R252, read off the two Words it tests. -/
theorem alignmentShifted_iff :
    alignmentShifted W = true ↔
      wordAt W 0 ≠ none ∧ wordAt W 1 ≠ none ∧ wordAt W 0 ≠ wordAt W 1 := by
  unfold alignmentShifted
  cases wordAt W 0 with
  | none => simp
  | some a =>
    cases wordAt W 1 with
    | none => simp
    | some b => simp

theorem merge_of_shifted (h : alignmentShifted W = true) : merge W = (shiftedPairing W, true) :=
  if_pos h

theorem merge_of_not_shifted (h : ¬alignmentShifted W = true) :
    merge W = (defaultPairing W, false) :=
  if_neg h

end Pairing

/-- Settles O32: by cases on which copies are there. -/
theorem resolveTrustsAgreementOrTheSurvivor : Obligations.ResolveTrustsAgreementOrTheSurvivor := by
  unfold Obligations.ResolveTrustsAgreementOrTheSurvivor
  exact ⟨fun a => resolve_self (some a), fun a b => resolve_of_ne, fun b => resolve_none_left (some b),
    fun a => resolve_none_right (some a), resolve_self none, resolve_comm, resolve_self⟩

/-- Settles O33: `merge` takes the shifted pairing exactly when the heuristic of R252 applies. -/
theorem mergePairsWordsByTheHeuristic : Obligations.MergePairsWordsByTheHeuristic := by
  unfold Obligations.MergePairsWordsByTheHeuristic
  intro w0 w1 w2 w3 w4 w5 w6 w7 w8 w9
  exact ⟨fun h => merge_of_shifted (alignmentShifted_iff.mpr h),
    fun h => merge_of_not_shifted fun hs => h (alignmentShifted_iff.mp hs)⟩

end Sys2Proof.Machine
end

section
/-! PROOFS. The statements of the family 45_command.md: the two fields of a byte, the member field, when a
frame's Command is emitted, and the agreement of the output registers that every step keeps. -/

namespace Sys2Proof.Machine

section CommandStage

variable {s : State} {l : List (Option Byte)}

/-- What the output register and the DedupState hold after the Command's emission (R279, R280). -/
abbrev Presents (s : State) (c : Command) : Prop :=
  s.cmdValid = true ∧ s.cmd = c ∧ s.dedupValid = true ∧ s.lastCounter = c.counter
    ∧ s.lastId0 = c.id0 ∧ s.lastId1 = c.id1 ∧ s.lastId2 = c.id2

/-- Every frame has an outcome: code 0 is left to RESET (R328). -/
theorem commandOutcome_ne_none (s : State) (l : List (Option Byte)) :
    (commandOutcome s l).1 ≠ .none := by
  obtain ⟨-, h⟩ | ⟨_, -, ⟨-, h⟩ | ⟨-, ⟨-, h⟩ | ⟨-, ⟨-, h⟩ | ⟨-, h⟩⟩⟩⟩ := commandOutcome_cases s l <;>
    simp [h]

theorem commandOutcome_byteLost_iff (s : State) (l : List (Option Byte)) :
    (commandOutcome s l).1 = .byteLost ↔ allValid l = none := by
  obtain ⟨hv, h⟩ | ⟨_, hv, ⟨-, h⟩ | ⟨-, ⟨-, h⟩ | ⟨-, ⟨-, h⟩ | ⟨-, h⟩⟩⟩⟩ := commandOutcome_cases s l <;>
    simp [h, hv]

/-- SUPPRESSED is the outcome of five valid bytes that fail the last clause of R278. -/
theorem exists_of_commandOutcome_suppressed (h : (commandOutcome s l).1 = .suppressed) :
    ∃ f, l = validBytes f ∧ ¬NotSuppressed s f := by
  obtain ⟨-, ho⟩ | ⟨f, hv, ⟨-, ho⟩ | ⟨-, ⟨-, ho⟩ | ⟨-, ⟨hs, ho⟩ | ⟨-, ho⟩⟩⟩⟩ := commandOutcome_cases s l
  · simp [ho] at h
  · simp [ho] at h
  · simp [ho] at h
  · exact ⟨f, eq_validBytes_of_allValid hv, (suppresses_iff s f).mp hs⟩
  · simp [ho] at h

/-- A Command is emitted only of five valid bytes that meet the emission predicate (R278). -/
theorem exists_of_commandOutcome_some {c : Command} (h : (commandOutcome s l).2 = some c) :
    ∃ f, l = validBytes f ∧ Emits s f ∧ c = commandOf s.params f := by
  obtain ⟨f, hf⟩ : ∃ f, allValid l = some f := by
    rw [← Option.ne_none_iff_exists', ne_eq, ← commandOutcome_byteLost_iff s]
    intro hlost
    have hem := (commandOutcome_emitted_iff s l).mpr (by simp [h])
    simp [hlost] at hem
  obtain rfl := eq_validBytes_of_allValid hf
  have hem : Emits s f := by
    by_contra hne
    simp [commandOutcome_of_not_emits hne] at h
  rw [commandOutcome_of_emits hem] at h
  exact ⟨f, rfl, hem, (Option.some.inj h).symm⟩

/-- A DECODE whose stage yields a Command presents it. -/
theorem presents_of_commandOutcome {c : Command} (h : (commandOutcome s s.frameBytes).2 = some c) :
    Presents (decodeFrame s) c := by
  simp [Presents, decodeFrame_cmdValid, decodeFrame_cmd, decodeFrame_dedupValid,
    decodeFrame_lastCounter, decodeFrame_lastId0, decodeFrame_lastId1, decodeFrame_lastId2, h]

/-- A frame that meets the emission predicate: its Command is presented, with the outcome EMITTED. -/
theorem decodeFrame_of_emits {f : FrameBytes} (hb : s.frameBytes = validBytes f) (he : Emits s f) :
    (decodeFrame s).decStatus = DecStatus.emitted.code
      ∧ Presents (decodeFrame s) (commandOf s.params f) := by
  have ho := commandOutcome_of_emits he
  rw [← hb] at ho
  exact ⟨by rw [decodeFrame_decStatus, ho], presents_of_commandOutcome (by rw [ho])⟩

/-- A frame that does not emit: the output registers stay, and the outcome is another one. -/
theorem decodeFrame_of_not_emits (h : ∀ f, s.frameBytes = validBytes f → ¬Emits s f) :
    (decodeFrame s).decStatus ≠ DecStatus.emitted.code
      ∧ SameCommand s (decodeFrame s) ∧ SameDedup s (decodeFrame s) := by
  have hnone : (commandOutcome s s.frameBytes).2 = none := by
    rw [Option.eq_none_iff_forall_ne_some]
    intro c hc
    obtain ⟨f, hb, he, -⟩ := exists_of_commandOutcome_some hc
    exact h f hb he
  refine ⟨?_, decodeFrame_keeps_output hnone⟩
  rw [decodeFrame_decStatus, ne_eq, DecStatus.code_inj, commandOutcome_emitted_iff, not_not]
  exact hnone

/-- What DECODE does to the output register and the DedupState, by the emission predicate of R278. -/
theorem decodeFrame_output_cases (s : State) :
    (∃ f, s.frameBytes = validBytes f ∧ Emits s f
      ∧ (decodeFrame s).decStatus = DecStatus.emitted.code
      ∧ Presents (decodeFrame s) (commandOf s.params f))
    ∨ ((decodeFrame s).decStatus ≠ DecStatus.emitted.code
      ∧ SameCommand s (decodeFrame s) ∧ SameDedup s (decodeFrame s)) := by
  by_cases h : ∃ f, s.frameBytes = validBytes f ∧ Emits s f
  · obtain ⟨f, hb, he⟩ := h
    exact .inl ⟨f, hb, he, decodeFrame_of_emits hb he⟩
  · exact .inr (decodeFrame_of_not_emits fun f hb he => h ⟨f, hb, he⟩)

/-- A DECODE that has a next state consumed the frame (R301). -/
theorem exec_decode_next {t : State} (h : exec .decode s = .next t) : t = decodeFrame s := by
  cases hen : s.decodeEnabled with
  | false => exact absurd ((execDecode_of_not_enabled hen).symm.trans h) (by simp)
  | true => exact (Host.Outcome.next.inj ((execDecode_of_enabled hen).symm.trans h)).symm

end CommandStage

section Coherence

variable {s t : State}

/-- The part of the coherence that speaks of the command register and the DedupState alone. -/
abbrev State.OutputAgrees (s : State) : Prop :=
  (s.cmdValid = true → s.dedupValid = true)
    ∧ (s.dedupValid = true →
        s.lastCounter = s.cmd.counter ∧ s.lastId0 = s.cmd.id0 ∧ s.lastId1 = s.cmd.id1
          ∧ s.lastId2 = s.cmd.id2 ∧ s.cmd.typ = lead s.params s.cmd.id0
          ∧ senderType s.cmd.typ ≠ .unrecognized ∧ actionOf s.cmd.action ≠ .unrecognized)
    ∧ (s.dedupValid = false → s.cmd = Command.zero)

theorem State.Coherent.outputAgrees (h : s.Coherent) : s.OutputAgrees := by
  obtain ⟨hvalid, hkey, hzero, -⟩ := h
  exact ⟨hvalid, hkey, hzero⟩

/-- The Command emitted for a frame has recognised codes and is the one whose key is kept. -/
theorem outputAgrees_of_presents {f : FrameBytes} (hp : t.params = s.params) (he : Emits s f)
    (h : Presents t (commandOf s.params f)) : t.OutputAgrees := by
  obtain ⟨-, hc, hd, hcounter, h0, h1, h2⟩ := h
  obtain ⟨ht, ha, -⟩ := he
  refine ⟨fun _ => hd, fun _ => ?_, fun hfalse => absurd (hd.symm.trans hfalse) (by decide)⟩
  rw [hc, hp, ne_eq, ne_eq, senderType_unrecognized_iff, actionOf_unrecognized_iff]
  exact ⟨hcounter, h0, h1, h2, rfl, not_not.mpr ht, not_not.mpr ha⟩

theorem outputAgrees_of_same (h : s.OutputAgrees) (hp : t.params = s.params)
    (hcommand : SameCommand s t) (hdedup : SameDedup s t) : t.OutputAgrees := by
  obtain ⟨hv, hc⟩ := hcommand
  obtain ⟨hd, hcounter, h0, h1, h2⟩ := hdedup
  rw [State.OutputAgrees, hv, hc, hd, hcounter, h0, h1, h2, hp]
  exact h

theorem outputAgrees_decodeFrame (h : s.OutputAgrees) : (decodeFrame s).OutputAgrees := by
  obtain ⟨f, -, he, -, hpresents⟩ | ⟨-, hcommand, hdedup⟩ := decodeFrame_output_cases s
  · exact outputAgrees_of_presents (decodeFrame_params s) he hpresents
  · exact outputAgrees_of_same h (decodeFrame_params s) hcommand hdedup

/-- A lost byte leaves its valid bit clear (R329). -/
theorem validBits_five_of_lost {l : List (Option Byte)} (hlen : l.length = 5) (h : none ∈ l) :
    validBits 5 l ≠ 0x1F#5 := by
  obtain ⟨k, hk, hlost⟩ := List.mem_iff_getElem.mp h
  have hset : ∀ k < 5, (0x1F#5).getLsbD k = true := by decide
  intro hall
  have hbit := validBits_getLsbD 5 l k (hlen ▸ hk)
  rw [hall, hset k (hlen ▸ hk), List.getD_eq_getElem _ _ hk, hlost] at hbit
  exact absurd hbit (by decide)

/-- BYTE_LOST is the outcome exactly where BYTE_VALID shows a lost byte (R328, R329). -/
theorem decodeFrame_byteLost_iff (s : State) :
    (decodeFrame s).decStatus = DecStatus.byteLost.code ↔ (decodeFrame s).byteValid ≠ 0x1F#5 := by
  rw [decodeFrame_decStatus, DecStatus.code_inj, commandOutcome_byteLost_iff, decodeFrame_byteValid]
  constructor
  · obtain ⟨a, b, c, d, e, hfive⟩ : ∃ a b c d e, s.frameBytes = [a, b, c, d, e] := merge_five _
    rw [hfive, allValid_none_iff]
    exact validBits_five_of_lost rfl
  · intro hlost
    rw [Option.eq_none_iff_forall_ne_some]
    intro f hf
    rw [eq_validBytes_of_allValid hf, validBits_validBytes] at hlost
    exact hlost rfl

/-- SUPPRESSED tells of the key kept: it is the key of a CentralUnit's Command. -/
theorem decodeFrame_of_suppressed (h : s.OutputAgrees)
    (hs : (decodeFrame s).decStatus = DecStatus.suppressed.code) :
    (decodeFrame s).dedupValid = true ∧ senderType (decodeFrame s).cmd.typ = .centralUnit := by
  obtain ⟨_, -, -, hem, -⟩ | ⟨-, ⟨-, hc⟩, ⟨hd, -⟩⟩ := decodeFrame_output_cases s
  · exact absurd (hem.symm.trans hs) (by decide)
  · rw [decodeFrame_decStatus, DecStatus.code_inj] at hs
    obtain ⟨f, -, hf⟩ := exists_of_commandOutcome_suppressed hs
    simp only [NotSuppressed, not_or, not_not, Bool.not_eq_false] at hf
    obtain ⟨hvalid, -, ⟨h0, -⟩, h8⟩ := hf
    obtain ⟨-, hkey, -⟩ := h
    obtain ⟨-, hid0, -, -, htyp, -⟩ := hkey hvalid
    rw [hd, hc, htyp, ← hid0, ← h0, h8]
    exact ⟨hvalid, rfl⟩

/-- A shifted frame has its first two Words and, from Word 0 alone, its first byte (R252, R253). -/
theorem decodeFrame_of_shifted (h : (decodeFrame s).shifted = true) :
    (decodeFrame s).wordValid.getLsbD 0 = true ∧ (decodeFrame s).wordValid.getLsbD 1 = true
      ∧ (decodeFrame s).byteValid.getLsbD 0 = true := by
  rw [decodeFrame_shifted, merge_snd] at h
  obtain ⟨h0, h1, -⟩ := alignmentShifted_iff.mp h
  have hbytes : s.frameBytes = shiftedPairing s.frameWords := by
    rw [State.frameBytes, merge_of_shifted h]
  rw [decodeFrame_wordValid, decodeFrame_byteValid, hbytes, validBits_getLsbD 10 _ 0 (by decide),
    validBits_getLsbD 10 _ 1 (by decide), validBits_getLsbD 5 _ 0 (by decide)]
  refine ⟨Option.isSome_iff_ne_none.mpr h0, Option.isSome_iff_ne_none.mpr h1, ?_⟩
  show (resolve none (wordAt s.frameWords 0)).isSome = true
  rw [resolve_none_left]
  exact Option.isSome_iff_ne_none.mpr h0

/-- DECODE keeps the coherence: it writes every status register anew. -/
theorem coherent_decodeFrame (h : s.Coherent) : (decodeFrame s).Coherent := by
  obtain ⟨hvalid, hkey, hzero⟩ := outputAgrees_decodeFrame h.outputAgrees
  refine ⟨hvalid, hkey, hzero, fun hnone => ?_, (decodeFrame_byteLost_iff s).mp, fun _ hlost => ?_,
    fun hem => ?_, decodeFrame_of_suppressed h.outputAgrees, decodeFrame_of_shifted, ?_⟩
  · rw [decodeFrame_decStatus, DecStatus.code_inj] at hnone
    exact absurd hnone (commandOutcome_ne_none s _)
  · exact not_not.mp (mt (decodeFrame_byteLost_iff s).mpr hlost)
  · obtain ⟨_, -, -, -, -, -, hd, -⟩ | ⟨hne, -⟩ := decodeFrame_output_cases s
    · exact hd
    · exact absurd hem hne
  · rw [decodeFrame_decStatus]
    exact DecStatus.code_le _

/-- The coherence speaks of nothing but the output registers and the parameters. -/
theorem coherent_of_sameOutput (h : s.Coherent) (hsame : SameOutput s t) : t.Coherent := by
  obtain ⟨⟨hv, hc⟩, ⟨hd, hcounter, h0, h1, h2⟩, ⟨hs, hw, hb, hsh⟩, hp, -⟩ := hsame
  rw [State.Coherent, hv, hc, hd, hcounter, h0, h1, h2, hs, hw, hb, hsh, hp]
  exact h

/-- CMD_ACCEPT takes the Command and leaves what is said of it. -/
theorem coherent_cmdAccept (h : s.Coherent) : State.Coherent { s with cmdValid := false } := by
  obtain ⟨-, hrest⟩ := h
  exact ⟨nofun, hrest⟩

/-- The reset state has nothing to say: no Command, no key and outcome code 0 (R351). -/
theorem coherent_reset (p : Config) (ws : List TxnWord) :
    State.Coherent { State.reset with params := p, trace := ws } := by
  refine ⟨nofun, nofun, fun _ => rfl, fun _ => ⟨rfl, rfl, rfl, rfl⟩, ?_, ?_, ?_, ?_, nofun, ?_⟩ <;>
    simp [State.reset, DecStatus.code]

/-- Every transaction keeps the coherence. -/
theorem exec_keeps_coherent {i : Instr} (h : s.Coherent) (he : exec i s = .next t) : t.Coherent := by
  obtain hsame | ⟨-, rfl⟩ | ⟨-, rfl⟩ | ⟨-, -, rfl⟩ := exec_output_cases he
  · exact coherent_of_sameOutput h hsame
  · exact coherent_cmdAccept h
  · exact coherent_reset s.params s.trace
  · exact coherent_decodeFrame h

end Coherence

/-- Settles O55: every transaction keeps the coherence, and the fetch changes the trace alone. -/
theorem outputCoherenceIsKeptByEveryStep : Obligations.OutputCoherenceIsKeptByEveryStep := by
  unfold Obligations.OutputCoherenceIsKeptByEveryStep
  exact fun _ _ => step_keeps_of_exec (P := State.Coherent) (fun _ _ hs => hs)
    fun _ _ _ => exec_keeps_coherent

/-- Settles O38: by the emission predicate the Command is presented, or both registers stay. -/
theorem decodeEmitsByThePredicate : Obligations.DecodeEmitsByThePredicate := by
  unfold Obligations.DecodeEmitsByThePredicate
  intro s hen
  refine ⟨decodeFrame s, execDecode_of_enabled hen, fun f hb he => ?_, fun hnot => ?_⟩
  · obtain ⟨-, hv, hc, hd, hcounter, h0, h1, h2⟩ := decodeFrame_of_emits hb he
    rw [hc]
    exact ⟨hv, rfl, rfl, rfl, rfl, rfl, rfl, rfl, rfl, hd, hcounter, h0, h1, h2⟩
  · obtain ⟨-, hsame⟩ := decodeFrame_of_not_emits hnot
    exact hsame

section Repeats

variable {s u : State} {f : FrameBytes}

/-- While the key is the frame's own, only the sender type is left of the last clause of R278. -/
theorem notSuppressed_of_own_key (h : Presents s (commandOf s.params f)) :
    NotSuppressed s f ↔ lead s.params f.b0 ≠ 8#8 := by
  obtain ⟨-, -, hd, hcounter, h0, h1, h2⟩ := h
  simp [NotSuppressed, hd, hcounter, h0, h1, h2, commandOf]

/-- The last clause of R278 reads the parameters and the DedupState alone. -/
theorem notSuppressed_congr (hp : u.params = s.params) (hd : SameDedup s u) :
    NotSuppressed u f ↔ NotSuppressed s f := by
  obtain ⟨hv, hcounter, h0, h1, h2⟩ := hd
  rw [NotSuppressed, hp, hv, hcounter, h0, h1, h2]

/-- A frame that fails the last clause of R278 alone is reported as suppressed and changes neither the
output register nor the key. -/
theorem decodeFrame_suppresses (hb : s.frameBytes = validBytes f)
    (ht : RecognisedType (lead s.params f.b0)) (ha : RecognisedAction (tail s.params f.b4))
    (hs : ¬NotSuppressed s f) :
    (decodeFrame s).decStatus = DecStatus.suppressed.code
      ∧ SameCommand s (decodeFrame s) ∧ SameDedup s (decodeFrame s) := by
  have ho : commandOutcome s s.frameBytes = (.suppressed, none) := by
    rw [hb, commandOutcome_validBytes, if_neg (not_not.mpr ht), if_neg (not_not.mpr ha), if_pos hs]
  exact ⟨by rw [decodeFrame_decStatus, ho], decodeFrame_keeps_output (by rw [ho])⟩

end Repeats

/-- Settles O39: the key is the frame's own, so the sender type decides. -/
theorem repeatsAreSuppressedForCentralUnitOnly : Obligations.RepeatsAreSuppressedForCentralUnitOnly := by
  unfold Obligations.RepeatsAreSuppressedForCentralUnitOnly
  intro s t u hdec hem hen hp hbytes hdedup
  obtain rfl := exec_decode_next hdec
  obtain ⟨f, hb, ⟨ht, ha, -⟩, -, hpresents⟩ | ⟨hne, -⟩ := decodeFrame_output_cases s
  · have hpt : (decodeFrame s).params = s.params := decodeFrame_params s
    have hub : u.frameBytes = validBytes f := hbytes.trans hb
    have hclause : NotSuppressed u f ↔ lead s.params f.b0 ≠ 8#8 := by
      rw [notSuppressed_congr (hp.trans hpt.symm) hdedup, ← hpt]
      exact notSuppressed_of_own_key (hpt.symm ▸ hpresents)
    obtain ⟨-, hcmd, -⟩ := hpresents
    rw [← hp] at ht ha
    refine ⟨decodeFrame u, execDecode_of_enabled hen, fun h8 => ?_, fun h8 => ?_⟩
    · rw [hcmd] at h8
      exact decodeFrame_suppresses hub ht ha fun hn => hclause.mp hn h8
    · rw [hcmd] at h8
      obtain ⟨hstatus, hv, hc, -⟩ := decodeFrame_of_emits hub ⟨ht, ha, hclause.mpr h8⟩
      exact ⟨hstatus, hv, by rw [hc, hcmd, hp]⟩
  · exact absurd hem hne

/-- Settles O47: RESET apart, only an emitting DECODE writes the key, and it presents the Command. -/
theorem dedupStateWrittenOnlyByAnEmit : Obligations.DedupStateWrittenOnlyByAnEmit := by
  unfold Obligations.DedupStateWrittenOnlyByAnEmit
  intro i s t he
  refine ⟨fun hne => ?_, ?_, ?_⟩
  · obtain ⟨-, hdedup, -⟩ | ⟨-, rfl⟩ | ⟨hi, -⟩ | ⟨hi, -, rfl⟩ := exec_output_cases he
    · exact absurd hdedup hne
    · exact absurd ⟨rfl, rfl, rfl, rfl, rfl⟩ hne
    · exact .inr hi
    · obtain ⟨_, -, -, hem, -⟩ | ⟨-, -, hdedup⟩ := decodeFrame_output_cases s
      · exact .inl ⟨hi, hem⟩
      · exact absurd hdedup hne
  · rintro rfl hem
    obtain rfl := exec_decode_next he
    obtain ⟨_, -, -, -, -, hc, hkey⟩ | ⟨hne, -⟩ := decodeFrame_output_cases s
    · exact hc ▸ hkey
    · exact absurd hem hne
  · rintro rfl hne
    obtain rfl := exec_decode_next he
    obtain ⟨_, -, -, hem, -⟩ | ⟨-, -, hdedup⟩ := decodeFrame_output_cases s
    · exact absurd hem hne
    · exact hdedup

section DisplayStrings

/-- A numeral read from the other end, the first bit weighing least. -/
theorem numeral_reverse (bits : List Bool) : numeral bits.reverse = bitsToNat bits := by
  rw [numeral, List.foldl_reverse]
  induction bits with
  | nil => rfl
  | cons b bits ih => rw [List.foldr_cons, ih, bitsToNat, Nat.add_comm]

theorem bitsToNat_append (bits bits' : List Bool) :
    bitsToNat (bits ++ bits') = bitsToNat bits + 2 ^ bits.length * bitsToNat bits' := by
  induction bits with
  | nil => simp [bitsToNat]
  | cons b bits ih =>
    rw [List.cons_append, bitsToNat, bitsToNat, ih, List.length_cons, Nat.pow_succ]
    ring

theorem bitsToNat_lt (bits : List Bool) : bitsToNat bits < 2 ^ bits.length := by
  induction bits with
  | nil => exact Nat.one_pos
  | cons b bits ih =>
    have hb := Bool.toNat_le b
    rw [bitsToNat, List.length_cons, Nat.pow_succ]
    omega

/-- A display string is cut where its last bits begin. -/
theorem numeral_append (bits bits' : List Bool) :
    numeral (bits ++ bits') = numeral bits' + 2 ^ bits'.length * numeral bits := by
  have happ := bitsToNat_append bits'.reverse bits.reverse
  rw [← List.reverse_append, ← numeral_reverse, ← numeral_reverse, ← numeral_reverse] at happ
  simpa only [List.reverse_reverse, List.length_reverse] using happ

theorem numeral_lt (bits : List Bool) : numeral bits < 2 ^ bits.length := by
  have hlt := bitsToNat_lt bits.reverse
  rwa [← numeral_reverse, List.reverse_reverse, List.length_reverse] at hlt

/-- The display string is a numeral of the byte's value (R10). -/
theorem numeral_disp (b : Byte) : numeral (disp b) = b.toNat := by
  have hrev : numeral (disp b) = bitsToNat (txBits b) := numeral_reverse (txBits b)
  have hlt := bitsToNat_lt (txBits b)
  rw [hrev, ← Nat.mod_eq_of_lt hlt]
  exact congrArg BitVec.toNat (ofNat_bitsToNat_txBits b)

/-- The two slices of a display string are a quotient and a remainder of the byte's value. -/
theorem numeral_slices (b : Byte) (k : Nat) :
    b.toNat / 2 ^ (8 - k) = numeral ((disp b).take k)
      ∧ b.toNat % 2 ^ (8 - k) = numeral ((disp b).drop k) := by
  have hlen : ((disp b).drop k).length = 8 - k := List.length_drop
  have hcut := numeral_append ((disp b).take k) ((disp b).drop k)
  rw [List.take_append_drop, numeral_disp, hlen] at hcut
  exact (Nat.div_mod_unique (Nat.two_pow_pos _)).mpr ⟨hcut.symm, hlen ▸ numeral_lt _⟩

end DisplayStrings

/-- Settles O34: the two fields are a quotient and a remainder, and so are the two slices. -/
theorem leadAndTailAreDisplaySlices : Obligations.LeadAndTailAreDisplaySlices := by
  unfold Obligations.LeadAndTailAreDisplaySlices
  intro p b
  obtain ⟨hlead, htail⟩ := numeral_slices b p.leadW.bits
  exact ⟨(lead_toNat p b).trans hlead, (tail_toNat p b).trans htail, lead_toNat p b, tail_toNat p b⟩

section Member

theorem memberOf_of_code {m : Byte} (hm : m ≠ 0#8) :
    (memberOf .centralUnit m).toNat = (m.toNat + 256 - 7) % 256 := by
  rw [memberOf, if_pos ⟨rfl, hm⟩, BitVec.toNat_sub]
  show (256 - 7 + m.toNat) % 256 = _
  omega

theorem memberOf_zero (t : SenderType) : memberOf t 0#8 = 0#8 := by simp [memberOf]

theorem memberOf_of_ne_centralUnit {t : SenderType} (ht : t ≠ .centralUnit) (m : Byte) :
    memberOf t m = 0#8 := by simp [memberOf, ht]

end Member

/-- Settles O36: the three cases of R275. -/
theorem memberSubtractsTheOffset : Obligations.MemberSubtractsTheOffset := by
  unfold Obligations.MemberSubtractsTheOffset
  simp only [commandOf]
  intro p f
  refine ⟨fun ht hm => ?_, fun _ hm => ?_, fun ht => memberOf_of_ne_centralUnit ht _⟩
  · rw [ht]
    exact memberOf_of_code hm
  · rw [hm]
    exact memberOf_zero _

end Sys2Proof.Machine
end

section
/-! PROOFS. The statements of the family 46_decode_engine.md: the phase cycle, what DECODE, CMD_ACCEPT and
IDLE do, how a step and a run take the transactions, and the fairness of DECODE. -/

namespace Sys2Proof.Machine

section PhaseChanges

variable {s : State}

/-- One arrow of the cycle that an EDGE takes (R306). -/
abbrev EdgeArrow (p q : Phase) : Prop :=
  (p = .idle ∧ q = .accumulating)
    ∨ (p = .accumulating ∧ (q = .armed ∨ q = .idle))
    ∨ (p = .armed ∧ q = .ready)

/-- SyncStep, which runs only while no frame is pending (R145), stays in its phase or takes an arrow. -/
theorem syncStep_phase (c : Slot) (hle : s.bc.toNat ≤ 10) (hr : s.ready = false) :
    (syncStep c s).phase = s.phase ∨ EdgeArrow s.phase (syncStep c s).phase := by
  obtain he | ⟨h0, -, he⟩ | ⟨h1, h9, -, -, he⟩ | ⟨h1, h9, -, -, -, he⟩ | ⟨h1, h9, -, -, -, he⟩
    | ⟨h10, -, -, he⟩ | ⟨h11, -⟩ := syncStep_cases c s
  · exact .inl (by rw [he])
  · rw [he]
    exact .inr (.inl ⟨phase_of_idle hr h0, phase_of_accumulating hr le_rfl (Nat.le_add_left 1 8)⟩)
  · have hbc : (s.acceptBlock c).bc.toNat = s.bc.toNat + 1 := blockCount_succ h9
    have hs : s.phase = .accumulating := phase_of_accumulating hr h1 h9
    rw [he]
    by_cases hlast : s.bc.toNat = 9
    · exact .inr (.inr (.inl ⟨hs, .inl (phase_of_armed hr (by omega))⟩))
    · have ht : (s.acceptBlock c).phase = .accumulating :=
        phase_of_accumulating hr (by omega) (by omega)
      exact .inl (ht.trans hs.symm)
  · rw [he]
    exact .inr (.inr (.inl ⟨phase_of_accumulating hr h1 h9, .inr (phase_of_idle hr rfl)⟩))
  · rw [he, phase_of_accumulating hr h1 h9]
    exact .inl (phase_of_accumulating hr le_rfl (Nat.le_add_left 1 8))
  · rw [he]
    exact .inr (.inr (.inr ⟨phase_of_armed hr h10, phase_of_ready rfl⟩))
  · omega

end PhaseChanges

/-- Settles O22: an appended EDGE takes the arrows of `syncStep_phase`, the three clearing transactions
lead to Idle, and the others write no register the phase reads. -/
theorem phaseCycle : Obligations.PhaseCycle := by
  unfold Obligations.PhaseCycle
  rintro i s t ⟨-, -, -, -, hle⟩ he hne
  obtain ⟨rfl, -⟩ | ⟨_, _, -, -, rfl⟩ | ⟨_, _, -, -, -, rfl⟩ | ⟨lvl, dur, hi, hr, -, rfl⟩ | ⟨hi, rfl⟩
    | ⟨-, rfl⟩ | ⟨hi, rfl⟩ | ⟨hi, hen, rfl⟩ := exec_next_cases he
  · exact absurd rfl hne
  · exact absurd rfl hne
  · exact absurd rfl hne
  · obtain hsame | harrow := syncStep_phase (s := s.append ⟨dur, lvl⟩) s.wr hle hr
    · exact absurd hsame hne
    · exact .inl ⟨⟨lvl, dur, hi⟩, harrow⟩
  · exact .inr (.inr ⟨.inl hi, phase_of_idle rfl rfl⟩)
  · exact absurd rfl hne
  · exact .inr (.inr ⟨.inr hi, phase_of_idle rfl rfl⟩)
  · obtain ⟨hr, -⟩ := decodeEnabled_iff.mp hen
    exact .inr (.inl ⟨hi, phase_of_ready hr, phase_of_idle (decodeFrame_ready s) (by simp)⟩)

section DecodeAndCommand

variable {s t : State}

/-- CMD_VALID after a DECODE, which no Command waited for, tells whether it emitted (R301). -/
theorem decodeFrame_cmdValid_iff (h : s.cmdValid = false) :
    (decodeFrame s).cmdValid = true ↔ (decodeFrame s).decStatus = DecStatus.emitted.code := by
  obtain ⟨_, -, -, hem, hv, -⟩ | ⟨hne, ⟨hv, -⟩, -⟩ := decodeFrame_output_cases s
  · exact iff_of_true hv hem
  · exact iff_of_false (by simp [hv, h]) hne

/-- What a transaction that writes the command fields is (R302). -/
theorem exec_cmd_ne {i : Instr} (h : exec i s = .next t) (hne : t.cmd ≠ s.cmd) :
    (i = .decode ∧ t.decStatus = DecStatus.emitted.code ∧ s.cmdValid = false) ∨ i = .reset := by
  obtain ⟨⟨-, hc⟩, -⟩ | ⟨-, rfl⟩ | ⟨hi, -⟩ | ⟨hi, hen, rfl⟩ := exec_output_cases h
  · exact absurd hc hne
  · exact absurd rfl hne
  · exact .inr hi
  · obtain ⟨_, -, -, hem, -⟩ | ⟨-, ⟨-, hc⟩, -⟩ := decodeFrame_output_cases s
    · obtain ⟨-, hv⟩ := decodeEnabled_iff.mp hen
      exact .inl ⟨hi, hem, hv⟩
    · exact absurd hc hne

/-- CMD_ACCEPT with no Command waiting changes nothing (R303). -/
theorem execCmdAccept_of_not_valid (h : s.cmdValid = false) : execCmdAccept s = .next s := by
  rw [execCmdAccept, ← h]

/-- A DECODE that ends the trace leaves no frame pending, so the run has ended (R309). -/
theorem runEnded_decodeFrame (h : s.trace = []) : (decodeFrame s).runEnded = true := by
  simp [State.runEnded, State.decodeEnabled, h]

end DecodeAndCommand

/-- Settles O41: each register from the lemma on what DECODE leaves in it. -/
theorem decodeConsumesThePendingFrame : Obligations.DecodeConsumesThePendingFrame := by
  unfold Obligations.DecodeConsumesThePendingFrame
  intro s hen
  obtain ⟨-, hv⟩ := decodeEnabled_iff.mp hen
  refine ⟨decodeFrame s, execDecode_of_enabled hen, by simp, by simp, by simp, decodeFrame_ready s,
    by simp [State.captureEn], ⟨fun i => by rw [decodeFrame_ring], decodeFrame_wr s⟩,
    ⟨decodeFrame_params s, decodeFrame_trace s⟩, fun i hi => ?_, fun k hk => ?_,
    decodeFrame_shifted s, ?_, decodeFrame_cmdValid_iff hv⟩
  · rw [decodeFrame_wordValid]
    exact validBits_getLsbD 10 s.frameWords i hi
  · rw [decodeFrame_byteValid]
    exact validBits_getLsbD 5 s.frameBytes k hk
  · rw [decodeFrame_decStatus, ne_eq, DecStatus.code_inj]
    exact commandOutcome_ne_none s s.frameBytes

/-- Settles O46: DECODE writes the fields only where no Command waits, so a waiting one is kept. -/
theorem pendingCommandIsNeverOverwritten : Obligations.PendingCommandIsNeverOverwritten := by
  unfold Obligations.PendingCommandIsNeverOverwritten
  refine fun i s t h => ⟨fun hv hi => ?_, exec_cmd_ne h⟩
  by_contra hne
  obtain ⟨-, -, hfalse⟩ | hreset := exec_cmd_ne h hne
  · exact absurd (hv.symm.trans hfalse) (by decide)
  · exact hi hreset

section Fairness

variable {s : State}

/-- While DECODE is enabled, nothing the environment may present but SYNC_RESET and RESET changes the
state: an EDGE is dropped (R145), and CMD_ACCEPT finds no Command waiting (R303). -/
theorem exec_eq_self_of_enabled {i : Instr} (hen : s.decodeEnabled = true)
    (hp : i.presentable = true) (hsync : i ≠ .syncReset) (hreset : i ≠ .reset) :
    exec i s = .next s := by
  obtain ⟨hr, hv⟩ := decodeEnabled_iff.mp hen
  cases i with
  | idle => rfl
  | edge lvl dur => exact execEdge_ready lvl dur hr
  | syncReset => exact absurd rfl hsync
  | cmdAccept => exact execCmdAccept_of_not_valid hv
  | reset => exact absurd rfl hreset
  | decode => exact absurd hp (by decide)
  | reserved110 => exact absurd hp (by decide)
  | reserved111 => exact absurd hp (by decide)

/-- So such a trace is used up, one word a step, and the pending frame waits as Ready closed it. -/
theorem run_of_enabled {ws : List TxnWord} (hen : s.decodeEnabled = true)
    (h : ∀ w ∈ ws, (Sys2Proof.decode w).presentable = true
      ∧ Sys2Proof.decode w ≠ .syncReset ∧ Sys2Proof.decode w ≠ .reset) :
    Sys2Proof.core.run ws.length { s with trace := ws } = .next { s with trace := [] } := by
  induction ws with
  | nil => rfl
  | cons w ws ih =>
    obtain ⟨⟨hp, hsync, hreset⟩, hws⟩ := List.forall_mem_cons.mp h
    have hstep : step { s with trace := w :: ws } = .next { s with trace := ws } := by
      rw [step, fetch_cons rfl]
      exact exec_eq_self_of_enabled hen hp hsync hreset
    rw [List.length_cons, run_succ _ hstep]
    exact ih hws

end Fairness

/-- Settles O49: the trace is used up with the frame still pending, and the step after it is the DECODE
that R309 gives an exhausted run. -/
theorem enabledDecodeIsEventuallyTaken : Obligations.EnabledDecodeIsEventuallyTaken := by
  unfold Obligations.EnabledDecodeIsEventuallyTaken
  intro s hen htrace
  exact ⟨decodeFrame { s with trace := [] },
    (run_add 1 (run_of_enabled hen htrace)).trans (run_succ 0 (step_of_decodeEnabled rfl hen)),
    execDecode_of_enabled hen, decodeFrame_ready _, runEnded_decodeFrame rfl⟩

/-- Settles O6: the fetch answers with the first word. -/
theorem stepRunsTheNextTransaction : Obligations.StepRunsTheNextTransaction := by
  unfold Obligations.StepRunsTheNextTransaction
  intro s w rest h
  rw [step, fetch_cons h]

/-- Settles O7: the fetch of an exhausted run answers DECODE where it is enabled, else IDLE. -/
theorem exhaustedRunEndsWithOneDecode : Obligations.ExhaustedRunEndsWithOneDecode := by
  unfold Obligations.ExhaustedRunEndsWithOneDecode
  refine fun s htrace => ⟨fun hen => ?_, fun hen => ?_⟩
  · have hstep := step_of_decodeEnabled htrace hen
    exact ⟨by simp [State.runEnded, hen], decodeFrame s,
      hstep.trans (execDecode_of_enabled hen).symm, hstep, runEnded_decodeFrame htrace⟩
  · refine ⟨by simp [State.runEnded, htrace, hen], ?_⟩
    rw [step, fetch_nil htrace, hen]
    rfl

/-- Settles O40: DECODE is refused exactly where it is not enabled. -/
theorem decodeIsEnabledExactlyWhenAFrameCanBeTaken :
    Obligations.DecodeIsEnabledExactlyWhenAFrameCanBeTaken := by
  unfold Obligations.DecodeIsEnabledExactlyWhenAFrameCanBeTaken
  intro s
  rw [← decodeEnabled_iff]
  refine ⟨fun ⟨t, ht⟩ => ?_, fun hen => ⟨decodeFrame s, execDecode_of_enabled hen⟩⟩
  by_contra hen
  exact absurd ((execDecode_of_not_enabled (Bool.eq_false_iff.mpr hen)).symm.trans ht) (by simp)

/-- Settles O42: the state after it is the old one with CMD_VALID clear. -/
theorem cmdAcceptClearsCmdValidOnly : Obligations.CmdAcceptClearsCmdValidOnly := by
  unfold Obligations.CmdAcceptClearsCmdValidOnly
  intro s
  exact ⟨{ s with cmdValid := false }, rfl, rfl, rfl, rfl, rfl, ⟨rfl, rfl, rfl, rfl⟩,
    ⟨rfl, rfl, rfl, rfl, rfl⟩, ⟨rfl, rfl, rfl, rfl⟩, ⟨rfl, rfl⟩,
    fun hr => decodeEnabled_iff.mpr ⟨hr, rfl⟩,
    fun hv => Host.Outcome.next.inj (execCmdAccept_of_not_valid hv), rfl, by decide⟩

/-- Settles O43: the three transactions have the same meaning, which leaves DECODE as it finds it. -/
theorem idleChangesNothing : Obligations.IdleChangesNothing := by
  unfold Obligations.IdleChangesNothing
  refine ⟨by decide, fun i s hi => ?_⟩
  have hexec : exec i s = .next s ∧ conditionsOf i s = [] := by
    obtain rfl | rfl | rfl := hi <;> exact ⟨rfl, rfl⟩
  obtain ⟨hnext, hcond⟩ := hexec
  exact ⟨hnext, hcond, fun hen => ⟨s, decodeFrame s, hnext, execDecode_of_enabled hen⟩⟩

end Sys2Proof.Machine
end

section
/-! PROOFS. The statements of the family 60_exceptions.md: the outcome a DECODE reports, the conditions that
show in its status registers, and that no transaction faults. -/

namespace Sys2Proof.Machine

section Outcomes

variable {s t : State}

/-- Five bytes, whatever the frame (R254). -/
theorem frameBytes_length (s : State) : s.frameBytes.length = 5 := by
  obtain ⟨_, _, _, _, _, hfive⟩ := merge_five s.frameWords
  rw [State.frameBytes, hfive]
  rfl

/-- DEC_STATUS after a DECODE names its outcome (R328). -/
theorem decodeFrame_decStatus_eq_code_iff (s : State) (d : DecStatus) :
    (decodeFrame s).decStatus = d.code ↔ (commandOutcome s s.frameBytes).1 = d := by
  rw [decodeFrame_decStatus, DecStatus.code_inj]

/-- The outcome is BYTE_LOST exactly where one of the frame's bytes is lost (R270). -/
theorem frameBytes_lost_iff (s : State) :
    (commandOutcome s s.frameBytes).1 = .byteLost ↔ none ∈ s.frameBytes := by
  obtain ⟨a, b, c, d, e, hfive⟩ : ∃ a b c d e, s.frameBytes = [a, b, c, d, e] := merge_five _
  rw [commandOutcome_byteLost_iff, hfive, allValid_none_iff]

/-- The codes a DECODE may write are above that of the state after reset. -/
theorem DecStatus.one_le_code {d : DecStatus} (h : d ≠ .none) : 1 ≤ d.code.toNat := by
  cases d with
  | none => exact absurd rfl h
  | emitted | suppressed | byteLost | unrecType | unrecAction => decide

/-- Only DECODE and RESET write DEC_STATUS (R328). -/
theorem exec_decStatus_ne {i : Instr} (h : exec i s = .next t) (hne : t.decStatus ≠ s.decStatus) :
    i = .decode ∨ i = .reset := by
  obtain ⟨-, -, ⟨hd, -⟩, -⟩ | ⟨-, rfl⟩ | ⟨hi, -⟩ | ⟨hi, -⟩ := exec_output_cases h
  · exact absurd hd hne
  · exact absurd rfl hne
  · exact .inr hi
  · exact .inl hi

end Outcomes

/-- Settles O37: the outcome of the command stage, read by its code. -/
theorem decodeReportsTheFirstOutcomeThatApplies :
    Obligations.DecodeReportsTheFirstOutcomeThatApplies := by
  unfold Obligations.DecodeReportsTheFirstOutcomeThatApplies
  refine ⟨rfl, fun _ _ _ => exec_decStatus_ne, fun s hen => ?_⟩
  refine ⟨decodeFrame s, execDecode_of_enabled hen, ?_, ?_, frameBytes_length s, fun hlost => ?_,
    fun f hb => ⟨fun ht => ?_, fun ht ha => ?_, fun ht ha hs => ?_, fun hem => ?_⟩⟩
  · rw [decodeFrame_decStatus]
    exact DecStatus.one_le_code (commandOutcome_ne_none s s.frameBytes)
  · rw [decodeFrame_decStatus]
    exact DecStatus.code_le _
  · exact (decodeFrame_decStatus_eq_code_iff s .byteLost).mpr ((frameBytes_lost_iff s).mpr hlost)
  · rw [decodeFrame_decStatus, hb, commandOutcome_validBytes, if_pos ht]
    rfl
  · rw [decodeFrame_decStatus, hb, commandOutcome_validBytes, if_neg (not_not.mpr ht), if_pos ha]
    rfl
  · obtain ⟨hstatus, -⟩ := decodeFrame_suppresses hb ht ha hs
    exact hstatus
  · obtain ⟨hstatus, -⟩ := decodeFrame_of_emits hb hem
    exact hstatus

section Conditions

variable {s : State}

/-- The numbers listed, counted from `n` on, are those of the empty elements. -/
theorem mem_emptyFrom_iff (l : List (Option Byte)) (n i : Nat) :
    i ∈ emptyFrom n l ↔ ∃ k, l[k]? = some none ∧ i = n + k := by
  induction l generalizing n with
  | nil => simp [emptyFrom]
  | cons b l ih =>
    rw [← Nat.or_exists_add_one]
    cases b with
    | none => simp [emptyFrom, ih, Nat.add_assoc, Nat.add_comm 1]
    | some _ => simp [emptyFrom, ih, Nat.add_assoc, Nat.add_comm 1]

theorem mem_emptyFrom_zero_iff (l : List (Option Byte)) (i : Nat) :
    i ∈ emptyFrom 0 l ↔ l[i]? = some none := by
  simp [mem_emptyFrom_iff]

/-- The clear valid bits of a list are those of its empty elements (R329). -/
theorem mem_emptyFrom_iff_validBits {l : List (Option Byte)} {n : Nat} (hlen : l.length = n) (i : Nat) :
    i ∈ emptyFrom 0 l ↔ i < n ∧ (validBits n l).getLsbD i = false := by
  subst hlen
  rw [mem_emptyFrom_zero_iff, List.getElem?_eq_some_iff, ← exists_prop]
  refine exists_congr fun hlt => ?_
  rw [validBits_getLsbD _ l i hlt, List.getD_eq_getElem _ _ hlt, Option.isSome_eq_false_iff,
    Option.isNone_iff_eq_none]

/-- What an outcome stands for (R326, R327). -/
theorem mem_outcomeConditions_iff (c : Condition) (d : DecStatus) :
    c ∈ outcomeConditions d ↔
      (c = .repeatSuppressed ∧ d = .suppressed)
        ∨ (c = .unrecognizedField ∧ (d = .unrecType ∨ d = .unrecAction)) := by
  cases d <;> simp [outcomeConditions]

/-- The conditions of a DECODE are those of the string, the Words, the bytes and the outcome (R323 to
R327). -/
theorem mem_decodeConditions_iff (hen : s.decodeEnabled = true) (c : Condition) :
    c ∈ conditionsOf .decode s ↔
      (Symbol.error ∈ s.triBitString ∧ c = .symbolError)
        ∨ (∃ i ∈ emptyFrom 0 s.frameWords, .wordCorruption i = c)
        ∨ (∃ k ∈ emptyFrom 0 s.frameBytes, .irreconcilableByte k = c)
        ∨ c ∈ outcomeConditions (commandOutcome s s.frameBytes).1 := by
  simp [conditionsOf, decodeConditions, hen]

theorem wordCorruption_mem_iff (hen : s.decodeEnabled = true) (i : Nat) :
    Condition.wordCorruption i ∈ conditionsOf .decode s ↔ i ∈ emptyFrom 0 s.frameWords := by
  simp [mem_decodeConditions_iff hen, mem_outcomeConditions_iff]

theorem irreconcilableByte_mem_iff (hen : s.decodeEnabled = true) (k : Nat) :
    Condition.irreconcilableByte k ∈ conditionsOf .decode s ↔ k ∈ emptyFrom 0 s.frameBytes := by
  simp [mem_decodeConditions_iff hen, mem_outcomeConditions_iff]

theorem exists_irreconcilableByte_mem_iff (hen : s.decodeEnabled = true) :
    (∃ k, Condition.irreconcilableByte k ∈ conditionsOf .decode s) ↔ none ∈ s.frameBytes := by
  rw [List.mem_iff_getElem?]
  exact exists_congr fun k =>
    (irreconcilableByte_mem_iff hen k).trans (mem_emptyFrom_zero_iff s.frameBytes k)

theorem unrecognizedField_mem_iff (hen : s.decodeEnabled = true) :
    Condition.unrecognizedField ∈ conditionsOf .decode s ↔
      (commandOutcome s s.frameBytes).1 = .unrecType
        ∨ (commandOutcome s s.frameBytes).1 = .unrecAction := by
  simp [mem_decodeConditions_iff hen, mem_outcomeConditions_iff]

theorem repeatSuppressed_mem_iff (hen : s.decodeEnabled = true) :
    Condition.repeatSuppressed ∈ conditionsOf .decode s ↔
      (commandOutcome s s.frameBytes).1 = .suppressed := by
  simp [mem_decodeConditions_iff hen, mem_outcomeConditions_iff]

end Conditions

/-- Settles O48: the empty Words and bytes are the clear valid bits, and the code names the outcome. -/
theorem decodeConditionsAreVisible : Obligations.DecodeConditionsAreVisible := by
  unfold Obligations.DecodeConditionsAreVisible
  intro s hen
  have hcode := decodeFrame_decStatus_eq_code_iff s
  refine ⟨decodeFrame s, execDecode_of_enabled hen, fun i => ?_, fun k => ?_, ?_, ?_, ?_⟩
  · rw [wordCorruption_mem_iff hen, decodeFrame_wordValid]
    exact mem_emptyFrom_iff_validBits (splitFrom_length _ _ _) i
  · rw [irreconcilableByte_mem_iff hen, decodeFrame_byteValid]
    exact mem_emptyFrom_iff_validBits (frameBytes_length s) k
  · rw [exists_irreconcilableByte_mem_iff hen, ← frameBytes_lost_iff]
    exact (hcode .byteLost).symm
  · rw [unrecognizedField_mem_iff hen]
    exact or_congr (hcode .unrecType).symm (hcode .unrecAction).symm
  · rw [repeatSuppressed_mem_iff hen]
    exact (hcode .suppressed).symm

section Completion

variable {s t : State}

/-- Every transaction completes, DECODE where it is enabled (R301, R331). -/
theorem exists_exec_next {i : Instr} (h : i = .decode → s.decodeEnabled = true) :
    ∃ t, exec i s = .next t := by
  cases i with
  | idle | syncReset | cmdAccept | reset | reserved110 | reserved111 => exact ⟨_, rfl⟩
  | edge lvl dur =>
    obtain ⟨-, he⟩ | ⟨-, -, he⟩ | ⟨-, -, he⟩ := execEdge_cases lvl dur s
    · exact ⟨_, he⟩
    · exact ⟨_, he⟩
    · exact ⟨_, he⟩
  | decode => exact ⟨_, execDecode_of_enabled (h rfl)⟩

/-- No transaction changes what is still to come: the fetch takes the words off. -/
theorem exec_trace {i : Instr} (h : exec i s = .next t) : t.trace = s.trace := by
  obtain ⟨-, -, -, -, ht⟩ | ⟨-, rfl⟩ | ⟨-, rfl⟩ | ⟨-, -, rfl⟩ := exec_output_cases h
  · exact ht
  · rfl
  · rfl
  · exact decodeFrame_trace s

end Completion

/-- Settles O8: there is no fault to stop with, and every transaction completes and keeps the model's own
fields. -/
theorem everyTransactionHasANextState : Obligations.EveryTransactionHasANextState := by
  unfold Obligations.EveryTransactionHasANextState
  refine fun i s => ⟨nofun, fun h => ?_⟩
  obtain ⟨t, ht⟩ := exists_exec_next fun hi => decodeEnabled_iff.mpr (h hi)
  exact ⟨t, ht, exec_params ht, exec_trace ht⟩

end Sys2Proof.Machine
end

section
/-! PROOFS. The statements of the family 70_reset_and_hazards.md: what RESET leaves in every element, and
the two invariants of the state it leaves. -/

namespace Sys2Proof.Machine

/-- RESET has one outcome in every state: the reset state beside the parameters and the trace (R350). -/
theorem exec_reset (s : State) :
    exec .reset s = .next { State.reset with params := s.params, trace := s.trace } := rfl

/-- Every slot of the reset ring holds the entry `{0, 0}` (R351). -/
theorem reset_ring_read (i : Slot) : State.reset.ring.read i = { dur := 0#32, lvl := false } := rfl

/-- The parameters and the trace are in neither output word, so both words are those of the reset state. -/
theorem reset_outputs_zero (p : Config) (ws : List TxnWord) :
    State.stat { State.reset with params := p, trace := ws } = 0
      ∧ State.cmdData { State.reset with params := p, trace := ws } = 0 := by
  obtain ⟨hstat, hdata, -⟩ := outputWordsViewTheRegisters
  exact ⟨hstat, hdata⟩

/-- The reset detector is cleared and its ring empty, whatever the parameters and the trace (R42, R351). -/
theorem inv_reset (p : Config) (ws : List TxnWord) :
    State.Inv { State.reset with params := p, trace := ws } :=
  inv_of_cleared rfl rfl rfl rfl rfl

/-- Settles O44: the outcome of RESET is `exec_reset`'s, whose elements are read off one by one, the ring
slot by slot. -/
theorem resetFromAnyState : Obligations.ResetFromAnyState := by
  unfold Obligations.ResetFromAnyState
  intro s
  obtain ⟨hstat, hdata⟩ := reset_outputs_zero s.params s.trace
  have hown : SameOwn s { State.reset with params := s.params, trace := s.trace } := ⟨rfl, rfl⟩
  exact ⟨_, exec_reset s, reset_ring_read, rfl, rfl, rfl, rfl, rfl, rfl, rfl, rfl, rfl, rfl, rfl, rfl, rfl,
    rfl, rfl, rfl, hown, hstat, hdata, rfl, rfl⟩

/-- Settles O52: the reset detector is cleared, and the reset registers hold no Command and no outcome. -/
theorem resetMeetsTheInvariants : Obligations.ResetMeetsTheInvariants := by
  unfold Obligations.ResetMeetsTheInvariants
  exact fun p ws => ⟨inv_reset p ws, coherent_reset p ws⟩

end Sys2Proof.Machine
end
